-- ==== Sys2Proof/Word.lean ====
section
/-! DEFINITION. The machine's word (00_scope.md R2, R3): 16 bits, bit 0 the least significant.
`v.toNat` is the unsigned reading u(v) and `v.toInt` the signed reading s(v) of R3. -/

namespace Sys2Proof

/-- A 16-bit pattern: a register, a memory word, an instruction word (00_scope.md R3, R60). -/
abbrev Word := BitVec 16

end Sys2Proof
end

