-- ==== Sys2Proof/Syntax.lean ====
section
/-! DEFINITION. The instructions: one constructor for each row of spec/opcode_table.json
(30_encoding.md R66, R70). -/

namespace Sys2Proof

/-- The register the 1-bit field RA names (10_state.md R11). -/
inductive Reg where
  | x
  | y
  deriving DecidableEq, Repr

/-- The register the 2-bit field RA_STACK names (10_state.md R11). -/
inductive StackReg where
  | x
  | y
  | acc
  | pc
  deriving DecidableEq, Repr

/-- The 30 machine instructions of 30_encoding.md R66 in the table's order, then the two
pseudo-instructions of R70. `ra` is RA, `ss` RA_STACK, `imm` the 9-bit IMM, `ba` the 10-bit BA. -/
inductive Instr where
  | trx
  | try_
  | ldr (ra : Reg) (imm : BitVec 9)
  | str (ra : Reg) (imm : BitVec 9)
  | psh (ss : StackReg)
  | pop (ss : StackReg)
  | brz (ba : BitVec 10)
  | brn (ba : BitVec 10)
  | brc (ba : BitVec 10)
  | bro (ba : BitVec 10)
  | bra (ba : BitVec 10)
  | add (ra : Reg) (imm : BitVec 9)
  | sub (ra : Reg) (imm : BitVec 9)
  | lsr (ra : Reg) (imm : BitVec 9)
  | lsl (ra : Reg) (imm : BitVec 9)
  | mul (ra : Reg) (imm : BitVec 9)
  | div (ra : Reg) (imm : BitVec 9)
  | mod (ra : Reg) (imm : BitVec 9)
  | cmp (ra : Reg) (imm : BitVec 9)
  | inc (ra : Reg)
  | dec (ra : Reg)
  | and (ra : Reg) (imm : BitVec 9)
  | or (ra : Reg) (imm : BitVec 9)
  | xor (ra : Reg) (imm : BitVec 9)
  | not (ra : Reg)
  | rsr (ra : Reg) (imm : BitVec 9)
  | rsl (ra : Reg) (imm : BitVec 9)
  | fct (ra : Reg) (imm : BitVec 9)
  | mov (ra : Reg) (imm : BitVec 9)
  | nop
  | jmp (ba : BitVec 10)
  | ret
  deriving DecidableEq, Repr

/-- The mnemonic of spec/opcode_table.json. -/
def Instr.mnemonic : Instr → String
  | .trx => "TRX"
  | .try_ => "TRY"
  | .ldr _ _ => "LDR"
  | .str _ _ => "STR"
  | .psh _ => "PSH"
  | .pop _ => "POP"
  | .brz _ => "BRZ"
  | .brn _ => "BRN"
  | .brc _ => "BRC"
  | .bro _ => "BRO"
  | .bra _ => "BRA"
  | .add _ _ => "ADD"
  | .sub _ _ => "SUB"
  | .lsr _ _ => "LSR"
  | .lsl _ _ => "LSL"
  | .mul _ _ => "MUL"
  | .div _ _ => "DIV"
  | .mod _ _ => "MOD"
  | .cmp _ _ => "CMP"
  | .inc _ => "INC"
  | .dec _ => "DEC"
  | .and _ _ => "AND"
  | .or _ _ => "OR"
  | .xor _ _ => "XOR"
  | .not _ => "NOT"
  | .rsr _ _ => "RSR"
  | .rsl _ _ => "RSL"
  | .fct _ _ => "FCT"
  | .mov _ _ => "MOV"
  | .nop => "NOP"
  | .jmp _ => "JMP"
  | .ret => "RET"

/-- The machine instructions an instruction stands for (30_encoding.md R70): JMP adr is PSH PC ; BRA
adr, RET is POP PC, every machine instruction is itself. -/
def Instr.expand : Instr → List Instr
  | .jmp ba => [.psh .pc, .bra ba]
  | .ret => [.pop .pc]
  | i => [i]

end Sys2Proof
end

