-- ==== Sys2Proof/WellFormed.lean ====
section
/-! DEFINITION. Which terms of `Instr` are machine instructions, the ones a decoder reads
(30_encoding.md R65, R66): every one but the two pseudo-instructions, which have no opcode of their own
(R70, 90_conflicts.md C10). The operand fields need no check: their types are as wide as the fields
(R61), and every operand pattern of a format is an instruction (R69). -/

namespace Sys2Proof

/-- Is `i` one of the 30 machine instructions of 30_encoding.md R66? JMP and RET are not (R70). -/
def Instr.isMachine : Instr → Bool
  | .jmp _ => false
  | .ret => false
  | .trx => true
  | .try_ => true
  | .ldr _ _ => true
  | .str _ _ => true
  | .psh _ => true
  | .pop _ => true
  | .brz _ => true
  | .brn _ => true
  | .brc _ => true
  | .bro _ => true
  | .bra _ => true
  | .add _ _ => true
  | .sub _ _ => true
  | .lsr _ _ => true
  | .lsl _ _ => true
  | .mul _ _ => true
  | .div _ _ => true
  | .mod _ _ => true
  | .cmp _ _ => true
  | .inc _ => true
  | .dec _ => true
  | .and _ _ => true
  | .or _ _ => true
  | .xor _ _ => true
  | .not _ => true
  | .rsr _ _ => true
  | .rsl _ _ => true
  | .fct _ _ => true
  | .mov _ _ => true
  | .nop => true

/-- A well-formed instruction is a machine instruction. -/
abbrev Instr.WellFormed (i : Instr) : Prop := i.isMachine = true

end Sys2Proof
end

