-- ==== Sys2Proof/Decode.lean ====
section
/-! DEFINITION. Decoding and encoding (30_encoding.md R60 to R68, R70). The decoder reads one 16-bit word
and knows the 30 machine instructions only; a word that is none is rejected by name. The encoder
builds an instruction's words from the same formats. -/

namespace Sys2Proof

/-! ## The fields of an instruction word (R61), the outputs of the instruction register -/

/-- opcode = I[15:10]. -/
def opcodeField (w : Word) : BitVec 6 := w.extractLsb' 10 6

/-- RA = I[9]. -/
def raField (w : Word) : Reg := if w.getLsbD 9 then .y else .x

/-- The bits 9..8, RA_STACK. -/
def raStackBits (w : Word) : BitVec 2 := w.extractLsb' 8 2

/-- The register RA_STACK names: 00 X, 01 Y, 10 ACC, 11 PC (10_state.md R11). -/
def stackRegOf (b : BitVec 2) : StackReg :=
  match b.toNat with
  | 0 => .x
  | 1 => .y
  | 2 => .acc
  | _ => .pc

/-- RA_STACK = I[9:8]. -/
def raStackField (w : Word) : StackReg := stackRegOf (raStackBits w)

/-- BA = I[9:0]. -/
def baField (w : Word) : BitVec 10 := w.extractLsb' 0 10

/-- IMM = I[8:0]. -/
def immField (w : Word) : BitVec 9 := w.extractLsb' 0 9

/-- I[7:0], zero in format FS (R62). -/
def lowByte (w : Word) : BitVec 8 := w.extractLsb' 0 8

/-! ## The decoder -/

/-- What a word decodes to: an instruction, or a rejection by name (R65). -/
inductive Decoded where
  /-- the word is this instruction -/
  | ok (i : Instr)
  /-- the opcode is unassigned (R67) -/
  | illegalOpcode
  /-- a must-be-zero bit of the format is 1 (R68) -/
  | reservedEncoding
  deriving DecidableEq, Repr

/-- Format F0: bits 9..0 are zero (R62). -/
def formatF0 (i : Instr) (w : Word) : Decoded :=
  if baField w = 0 then .ok i else .reservedEncoding

/-- Format FM: RA and IMM, every pattern valid (R62, R69). -/
def formatFM (c : Reg → BitVec 9 → Instr) (w : Word) : Decoded := .ok (c (raField w) (immField w))

/-- Format FU: RA, bits 8..0 zero (R62). -/
def formatFU (c : Reg → Instr) (w : Word) : Decoded :=
  if immField w = 0 then .ok (c (raField w)) else .reservedEncoding

/-- Format FS: RA_STACK, bits 7..0 zero (R62). -/
def formatFS (c : StackReg → Instr) (w : Word) : Decoded :=
  if lowByte w = 0 then .ok (c (raStackField w)) else .reservedEncoding

/-- Format FB: BA, every pattern valid (R62, R69). -/
def formatFB (c : BitVec 10 → Instr) (w : Word) : Decoded := .ok (c (baField w))

/-- Decode one word: look the opcode up in the table of R66, then read the format's fields (R65). -/
def decode (w : Word) : Decoded :=
  match (opcodeField w).toNat with
  | 0 => formatF0 .trx w
  | 1 => formatF0 .try_ w
  | 2 => formatFM .ldr w
  | 3 => formatFM .str w
  | 4 => formatFS .psh w
  | 5 => formatFS .pop w
  | 6 => formatFB .brz w
  | 7 => formatFB .brn w
  | 8 => formatFB .brc w
  | 9 => formatFB .bro w
  | 10 => formatFB .bra w
  | 13 => formatFM .add w
  | 14 => formatFM .sub w
  | 15 => formatFM .lsr w
  | 16 => formatFM .lsl w
  | 17 => formatFM .mul w
  | 18 => formatFM .div w
  | 19 => formatFM .mod w
  | 20 => formatFM .cmp w
  | 21 => formatFU .inc w
  | 22 => formatFU .dec w
  | 23 => formatFM .and w
  | 24 => formatFM .or w
  | 25 => formatFM .xor w
  | 26 => formatFU .not w
  | 27 => formatFM .rsr w
  | 28 => formatFM .rsl w
  | 29 => formatFM .fct w
  | 30 => formatFM .mov w
  | 63 => formatF0 .nop w
  | _ => .illegalOpcode

/-! ## The encoder -/

/-- The bit of RA: 0 = X, 1 = Y (10_state.md R11). -/
def Reg.bit : Reg → BitVec 1
  | .x => 0
  | .y => 1

/-- The bits of RA_STACK: 00 X, 01 Y, 10 ACC, 11 PC (10_state.md R11). -/
def StackReg.bits : StackReg → BitVec 2
  | .x => 0
  | .y => 1
  | .acc => 2
  | .pc => 3

/-- The 6-bit opcode in bits 15..10, zeros below (R62). -/
def opcodeBits (op : BitVec 6) : Word := op.setWidth 16 <<< 10

/-- Format F0: opcode, ten zeros (R62). -/
def encodeF0 (op : BitVec 6) : Word := opcodeBits op

/-- Format FM: opcode, RA in bit 9, IMM in bits 8..0 (R62). -/
def encodeFM (op : BitVec 6) (ra : Reg) (imm : BitVec 9) : Word :=
  opcodeBits op ||| ra.bit.setWidth 16 <<< 9 ||| imm.setWidth 16

/-- Format FU: opcode, RA in bit 9, nine zeros (R62). -/
def encodeFU (op : BitVec 6) (ra : Reg) : Word := opcodeBits op ||| ra.bit.setWidth 16 <<< 9

/-- Format FS: opcode, RA_STACK in bits 9..8, eight zeros (R62). -/
def encodeFS (op : BitVec 6) (ss : StackReg) : Word := opcodeBits op ||| ss.bits.setWidth 16 <<< 8

/-- Format FB: opcode, BA in bits 9..0 (R62). -/
def encodeFB (op : BitVec 6) (ba : BitVec 10) : Word := opcodeBits op ||| ba.setWidth 16

/-- The words of an instruction, from the opcode column of R66 and the formats of R62; JMP is the two
words of PSH PC and BRA adr, RET the word of POP PC (R70). -/
def encode : Instr → List Word
  | .trx => [encodeF0 0b000000]
  | .try_ => [encodeF0 0b000001]
  | .ldr ra imm => [encodeFM 0b000010 ra imm]
  | .str ra imm => [encodeFM 0b000011 ra imm]
  | .psh ss => [encodeFS 0b000100 ss]
  | .pop ss => [encodeFS 0b000101 ss]
  | .brz ba => [encodeFB 0b000110 ba]
  | .brn ba => [encodeFB 0b000111 ba]
  | .brc ba => [encodeFB 0b001000 ba]
  | .bro ba => [encodeFB 0b001001 ba]
  | .bra ba => [encodeFB 0b001010 ba]
  | .add ra imm => [encodeFM 0b001101 ra imm]
  | .sub ra imm => [encodeFM 0b001110 ra imm]
  | .lsr ra imm => [encodeFM 0b001111 ra imm]
  | .lsl ra imm => [encodeFM 0b010000 ra imm]
  | .mul ra imm => [encodeFM 0b010001 ra imm]
  | .div ra imm => [encodeFM 0b010010 ra imm]
  | .mod ra imm => [encodeFM 0b010011 ra imm]
  | .cmp ra imm => [encodeFM 0b010100 ra imm]
  | .inc ra => [encodeFU 0b010101 ra]
  | .dec ra => [encodeFU 0b010110 ra]
  | .and ra imm => [encodeFM 0b010111 ra imm]
  | .or ra imm => [encodeFM 0b011000 ra imm]
  | .xor ra imm => [encodeFM 0b011001 ra imm]
  | .not ra => [encodeFU 0b011010 ra]
  | .rsr ra imm => [encodeFM 0b011011 ra imm]
  | .rsl ra imm => [encodeFM 0b011100 ra imm]
  | .fct ra imm => [encodeFM 0b011101 ra imm]
  | .mov ra imm => [encodeFM 0b011110 ra imm]
  | .nop => [encodeF0 0b111111]
  | .jmp ba => [encodeFS 0b000100 .pc, encodeFB 0b001010 ba]
  | .ret => [encodeFS 0b000101 .pc]

/-! ## The opcode map as a table (R66) -/

/-- A row of the table of R66: a word `I` is the row's instruction iff `I & mask = pattern`. -/
structure OpRow where
  mnemonic : String
  pattern : Word
  mask : Word
  deriving DecidableEq, Repr

/-- The `match` and `mask` columns of R66, transcribed. -/
def opcodeRows : List OpRow :=
  [⟨"TRX", 0x0000, 0xFFFF⟩, ⟨"TRY", 0x0400, 0xFFFF⟩, ⟨"LDR", 0x0800, 0xFC00⟩, ⟨"STR", 0x0C00, 0xFC00⟩,
   ⟨"PSH", 0x1000, 0xFCFF⟩, ⟨"POP", 0x1400, 0xFCFF⟩, ⟨"BRZ", 0x1800, 0xFC00⟩, ⟨"BRN", 0x1C00, 0xFC00⟩,
   ⟨"BRC", 0x2000, 0xFC00⟩, ⟨"BRO", 0x2400, 0xFC00⟩, ⟨"BRA", 0x2800, 0xFC00⟩] ++
  [⟨"ADD", 0x3400, 0xFC00⟩, ⟨"SUB", 0x3800, 0xFC00⟩, ⟨"LSR", 0x3C00, 0xFC00⟩, ⟨"LSL", 0x4000, 0xFC00⟩,
   ⟨"MUL", 0x4400, 0xFC00⟩, ⟨"DIV", 0x4800, 0xFC00⟩, ⟨"MOD", 0x4C00, 0xFC00⟩, ⟨"CMP", 0x5000, 0xFC00⟩,
   ⟨"INC", 0x5400, 0xFDFF⟩, ⟨"DEC", 0x5800, 0xFDFF⟩] ++
  [⟨"AND", 0x5C00, 0xFC00⟩, ⟨"OR", 0x6000, 0xFC00⟩, ⟨"XOR", 0x6400, 0xFC00⟩, ⟨"NOT", 0x6800, 0xFDFF⟩,
   ⟨"RSR", 0x6C00, 0xFC00⟩, ⟨"RSL", 0x7000, 0xFC00⟩, ⟨"FCT", 0x7400, 0xFC00⟩, ⟨"MOV", 0x7800, 0xFC00⟩,
   ⟨"NOP", 0xFC00, 0xFFFF⟩]

/-! ## Words as spec/opcode_table.json numbers their bits -/

/-- The first word of an `nbits`-bit table entry: for a one-word row all of `w`; for the one two-word
row, JMP, the HIGH half, as that row's note says ("first word in the high half"). DEDUCED, log entry 26. -/
def tableFirstWord (nbits w : Nat) : Word := BitVec.ofNat 16 (w / 2 ^ (nbits - 16))

/-- The second word of a two-word table entry, the low half. -/
def tableSecondWord (w : Nat) : Word := BitVec.ofNat 16 w

/-- What the decoder reads from the table entry's first word. A pseudo-instruction row answers with the
machine instruction its first word is (30_encoding.md R65, R70): JMP with PSH PC, RET with POP PC. -/
def decodeTableWord (nbits w : Nat) : Option Instr :=
  match decode (tableFirstWord nbits w) with
  | .ok i => some i
  | .illegalOpcode => none
  | .reservedEncoding => none

end Sys2Proof
end

