-- ==== Sys2Proof/Config.lean ====
section
/-! DEFINITION. What the implementation fixes (00_scope.md section 4), the parameters the spec decides
or leaves open (92_eei_decisions.md), and the free values, opaque constants that nothing in Lean can
evaluate. -/

namespace Sys2Proof.Config

/-- IM_SIZE: instruction memory locations (10_state.md R25). -/
def imSize : Nat := 1024

/-- DM_SIZE: data memory locations (10_state.md R26). -/
def dmSize : Nat := 512

/-- RESET_ACC. DESIGN CHOICE (unsafe, log entry 1): the spec gives ACC no reset value (10_state.md R31, D2). -/
def resetAcc : Word := 0

/-- RESET_X. DESIGN CHOICE (unsafe, log entry 1): the spec gives X no reset value (10_state.md R31, D2). -/
def resetX : Word := 0

/-- RESET_Y. DESIGN CHOICE (unsafe, log entry 1): the spec gives Y no reset value (10_state.md R31, D2). -/
def resetY : Word := 0

/-- The two orders of the SP update against the memory access that make POP return what PSH stored
(42_stack.md R120, D4). -/
inductive StackOrder where
  /-- PSH stores then decrements, POP increments then loads. -/
  | postDecPreInc
  /-- PSH decrements then stores, POP loads then increments. -/
  | preDecPostInc
  deriving DecidableEq, Repr

/-- STACK_ORDER. DESIGN CHOICE of the spec (unsafe, log entry 4; D4): PostDecPreInc. -/
def stackOrder : StackOrder := .postDecPreInc

/-- DIV_SIGNED. DESIGN CHOICE of the spec (unsafe, log entry 9; D9): false. -/
def divSigned : Bool := false

/-- FREE VALUE (safe, log entry 16): CARRY after the k-th FCT, any value (47_factorial.md R200, R149). -/
opaque freeFctCarry : Nat → Bool

/-- FREE VALUE (safe, log entry 16): OVERFLOW after the k-th FCT, any value (47_factorial.md R200, R149). -/
opaque freeFctOverflow : Nat → Bool

/-- FREE VALUE (safe, log entry 27): what the timer FACT_CNT holds after the k-th FCT; no rule says. -/
opaque freeFactCnt : Nat → BitVec 9

/-- FREE VALUE (safe, log entry 30): PC_select of a conditional branch that is not taken, "not stated"
(30_encoding.md R76). -/
opaque pcSelectNotTaken : Bool

end Sys2Proof.Config
end

