-- ==== Sys2Proof/Machine/State.lean ====
section
/-! DEFINITION. The state of the machine as plain data, everything the spec gives it (10_state.md), its
reset values (10_state.md R31, 70_reset_and_hazards.md R250), and the reasons a step can stop. -/

namespace Sys2Proof.Machine

/-- The four flags (10_state.md R20). No instruction moves FLAGS as a word, so they are held by name;
`Flags.toBits` is the register's own numbering. -/
structure Flags where
  /-- ZERO, bit 3 -/
  z : Bool
  /-- NEGATIVE, bit 2 -/
  n : Bool
  /-- CARRY, bit 1 -/
  c : Bool
  /-- OVERFLOW, bit 0 -/
  v : Bool
  deriving DecidableEq, Repr

/-- The 4-bit FLAGS register {Z, N, C, V} (10_state.md R20). -/
def Flags.toBits (f : Flags) : BitVec 4 :=
  BitVec.ofBool f.z ++ (BitVec.ofBool f.n ++ (BitVec.ofBool f.c ++ BitVec.ofBool f.v))

/-- The state of the factorial unit (10_state.md R29, 47_factorial.md R203). -/
structure FactUnit where
  /-- FACT: a factorial is running -/
  running : Bool
  /-- FACT_REG: the running product -/
  reg : Word
  /-- FACT_CNT: the timer -/
  cnt : BitVec 9
  deriving DecidableEq, Repr

/-- A memory: (word address, word) pairs, addresses strictly rising. The spec's machine has no bytes
(20_memory.md R40, R41; log entry 18). -/
abbrev Memory := List (Nat × Word)

/-- The state. One home for every piece of state of INVENTORY.md's list. -/
structure State where
  /-- ACC (R10) -/
  acc : Word
  /-- X (R10) -/
  x : Word
  /-- Y (R10) -/
  y : Word
  /-- PC (R13) -/
  pc : Word
  /-- SP (R18) -/
  sp : Word
  /-- FLAGS (R20) -/
  flags : Flags
  /-- DM, the data memory (R26) -/
  dm : Memory
  /-- IM, the instruction memory, the spec's parameter IM_IMAGE (R25; log entry 21) -/
  im : Memory
  /-- the factorial unit (R29) -/
  fact : FactUnit
  /-- the model's own counter of free draws (log entry 16) -/
  draws : Nat
  deriving DecidableEq, Repr

/-- The factorial unit between instructions and after reset: FACT = 0, FACT_REG = 1 (R29, R31).
FACT_CNT's reset value is not stated: DESIGN CHOICE 0 (unsafe, log entry 27). -/
def FactUnit.reset : FactUnit := { running := false, reg := 1, cnt := 0 }

/-- The machine right after reset with no program loaded (10_state.md R31; log entries 1, 2, 3, 16, 21, 27). -/
def State.reset : State where
  acc := Config.resetAcc
  x := Config.resetX
  y := Config.resetY
  pc := 0x0000
  sp := 0x01FF
  flags := { z := false, n := false, c := false, v := false }
  dm := []
  im := []
  fact := FactUnit.reset
  draws := 0

/-! ## One setter per field -/

def State.setAcc (v : Word) (s : State) : State := { s with acc := v }
def State.setX (v : Word) (s : State) : State := { s with x := v }
def State.setY (v : Word) (s : State) : State := { s with y := v }
def State.setPc (v : Word) (s : State) : State := { s with pc := v }
def State.setSp (v : Word) (s : State) : State := { s with sp := v }
def State.setFlags (f : Flags) (s : State) : State := { s with flags := f }
def State.setDm (m : Memory) (s : State) : State := { s with dm := m }
def State.setIm (m : Memory) (s : State) : State := { s with im := m }
def State.setFact (u : FactUnit) (s : State) : State := { s with fact := u }
def State.setDraws (k : Nat) (s : State) : State := { s with draws := k }

/-! ## Why a step can stop -/

/-- The model-level faults of 60_exceptions.md R221: states for which the source gives the hardware no
behaviour. Every one is safe: the chip does something there and the model says nothing of it. -/
inductive Fault where
  /-- raised by step: IM holds no word at PC[9:0] (R221 order 1, D21); safe -/
  | unloadedInstruction
  /-- raised by step: the opcode is unassigned (R67, R221 order 2, D7); safe -/
  | illegalOpcode
  /-- raised by step: a must-be-zero bit is 1 (R68, R221 order 3, D8); safe -/
  | reservedEncoding
  /-- raised by LDR, POP, RET: the data memory word read has held no value since reset (R221 order 4, D3);
  safe. ACC, X and Y hold a value from reset, so no register read raises it (log entry 1). -/
  | uninitialisedRead
  /-- raised by DIV, MOD: the right operand is 0 (R163, R164, R221 order 5, D10); safe -/
  | divideByZero
  /-- raised by FCT: IMM = 0 (R201, R221 order 5, D15); safe -/
  | factorialOfZero
  deriving DecidableEq, Repr

/-- Why the model has no meaning for an instruction. -/
inductive Refusal where
  /-- raised by exec's arm of an instruction that has no meaning yet (no arm does); safe -/
  | notModelled (mnemonic : String)
  deriving DecidableEq, Repr

/-- The outcome of one step or one instruction. -/
abbrev Result := Host.Outcome State Fault Refusal

end Sys2Proof.Machine
end

