-- ==== Sys2Proof/Machine/Flags.lean ====
section
/-! DEFINITION. Every flag computation (44_alu_common.md section 2). Carry and overflow compare the exact
result with what 16 bits hold. -/

namespace Sys2Proof.Machine

/-- ZERO and NEGATIVE of a 16-bit result, with the CARRY and OVERFLOW given (R143). -/
def flagsOf (res : Word) (c v : Bool) : Flags :=
  { z := decide (res = 0), n := res.getLsbD 15, c := c, v := v }

/-- CARRY of an addition (R144). -/
def addCarry (a b : Word) : Bool := decide (a.toNat + b.toNat > 65535)

/-- OVERFLOW of an addition: operands of one sign, result of the other (R144). -/
def addOverflow (a b res : Word) : Bool :=
  a.getLsbD 15 == b.getLsbD 15 && res.getLsbD 15 != a.getLsbD 15

/-- CARRY of a subtraction, a borrow (R145). DESIGN CHOICE of the spec (unsafe, log entry 13; D13). -/
def subCarry (a b : Word) : Bool := decide (a.toNat < b.toNat)

/-- OVERFLOW of a subtraction (R145). DESIGN CHOICE of the spec (unsafe, log entry 13; D13). -/
def subOverflow (a b res : Word) : Bool :=
  a.getLsbD 15 != b.getLsbD 15 && res.getLsbD 15 != a.getLsbD 15

/-- CARRY of a multiplication (R146). DESIGN CHOICE of the spec (unsafe, log entry 13; D13). -/
def mulCarry (a b : Word) : Bool := decide (a.toNat * b.toNat > 65535)

/-- OVERFLOW of a multiplication (R146). DESIGN CHOICE of the spec (unsafe, log entry 13; D13). -/
def mulOverflow (a b : Word) : Bool :=
  decide (a.toInt * b.toInt < -32768 ∨ a.toInt * b.toInt > 32767)

/-- The flags of an addition (R143, R144). -/
def addFlags (a b res : Word) : Flags := flagsOf res (addCarry a b) (addOverflow a b res)

/-- The flags of a subtraction (R143, R145). -/
def subFlags (a b res : Word) : Flags := flagsOf res (subCarry a b) (subOverflow a b res)

/-- The flags of a multiplication (R143, R146). -/
def mulFlags (a b res : Word) : Flags := flagsOf res (mulCarry a b) (mulOverflow a b)

/-- The flags of shifts, divisions, logic and rotates: C and V are written 0 (R143, R147, R148).
DESIGN CHOICE of the spec (unsafe, log entry 13; D13): of shifts and DIV the source says that C and V remain
0, and D13(e) reads it as written 0; for the others D13(c), (d) decide the value too. -/
def plainFlags (res : Word) : Flags := flagsOf res false false

/-- The flags after the k-th FCT: Z and N of the result, C and V free (R149, 47_factorial.md R200;
log entry 16). -/
def fctFlags (k : Nat) (res : Word) : Flags :=
  flagsOf res (Config.freeFctCarry k) (Config.freeFctOverflow k)

end Sys2Proof.Machine
end

