-- ==== Sys2Proof/Machine/Ops.lean ====
section
/-! DEFINITION. The named operations over memories and registers (20_memory.md, 10_state.md, 42_stack.md
section 1), fetch, and what the host does before a run. The machine takes no exception and returns from
none (60_exceptions.md R220, R222), so there is no such operation. -/

namespace Sys2Proof.Machine

/-! ## A memory as a list in canonical form -/

/-- The word listed at `a`, if any. -/
def memFind (a : Nat) : Memory → Option Word
  | [] => none
  | (k, v) :: rest => if k = a then some v else memFind a rest

/-- List `v` at `a`, keeping the addresses rising. -/
def memInsert (a : Nat) (v : Word) : Memory → Memory
  | [] => [(a, v)]
  | (k, w) :: rest =>
    if a < k then (a, v) :: (k, w) :: rest
    else if a = k then (a, v) :: rest
    else (k, w) :: memInsert a v rest

/-- List nothing at `a`. -/
def memErase (a : Nat) : Memory → Memory
  | [] => []
  | (k, w) :: rest => if k = a then memErase a rest else (k, w) :: memErase a rest

/-- The word a memory holds at `a`, where `init` says what an unlisted address reads as (none: no value). -/
def memRead (init : Nat → Option Word) (a : Nat) (m : Memory) : Option Word :=
  match memFind a m with
  | some v => some v
  | none => init a

/-- Write `v` at `a`; a word equal to what the unlisted address reads as is not listed. -/
def memWrite (init : Nat → Option Word) (a : Nat) (v : Word) (m : Memory) : Memory :=
  if init a = some v then memErase a m else memInsert a v m

/-- The canonical form: addresses strictly rising and inside the memory, no entry equal to what its
unlisted address reads as. -/
abbrev Memory.wf (init : Nat → Option Word) (size : Nat) (m : Memory) : Prop :=
  m.Pairwise (fun p q => p.1 < q.1) ∧ ∀ e ∈ m, e.1 < size ∧ init e.1 ≠ some e.2

/-! ## The data memory (20_memory.md R40 to R51, 10_state.md R26) -/

/-- DM_INIT, what a data memory word nothing has written reads as: no known value (10_state.md R31, D3).
DESIGN CHOICE (safe, log entry 2). -/
def dmInit (_ : Nat) : Option Word := none

/-- DMRead(a) (00_scope.md R6); none where the word has held no value since reset. -/
def dmRead (a : BitVec 9) (s : State) : Option Word := memRead dmInit a.toNat s.dm

/-- DMWrite(a, v) (00_scope.md R6). -/
def dmWrite (a : BitVec 9) (v : Word) (s : State) : State := s.setDm (memWrite dmInit a.toNat v s.dm)

/-- Go on with the word at `a`, or fault UninitialisedRead (60_exceptions.md R221 order 4). -/
def withLoaded (a : BitVec 9) (s : State) (k : Word → State) : Result :=
  match dmRead a s with
  | some v => .next (k v)
  | none => .fault .uninitialisedRead

/-! ## The instruction memory and fetch (10_state.md R14, R25; 20_memory.md R46, R52) -/

/-- An instruction memory location no program fills holds no known word (D21). -/
def imInit (_ : Nat) : Option Word := none

/-- IM[a] (00_scope.md R6). -/
def imRead (a : BitVec 10) (s : State) : Option Word := memRead imInit a.toNat s.im

/-- Place the word `w` at IM location `a`: what the host does before a run; no instruction does (R52). -/
def imPlace (a : BitVec 10) (w : Word) (s : State) : State := s.setIm (memWrite imInit a.toNat w s.im)

/-- PC[9:0], the bits that index the instruction memory (10_state.md R14). -/
def pcIndex (pc : Word) : BitVec 10 := pc.setWidth 10

/-- The instruction register: the word at PC (10_state.md R14, R28). -/
def State.ir (s : State) : Option Word := imRead (pcIndex s.pc) s

/-! ## The program counter (10_state.md R15) -/

/-- `PC <- PC + 1`, modulo 2^16. -/
def nextPc (s : State) : State := s.setPc (s.pc + 1)

/-! ## The stack (42_stack.md R120 to R122) -/

/-- SP[8:0], the bits that index the data memory (10_state.md R18). -/
def spIndex (sp : Word) : BitVec 9 := sp.setWidth 9

/-- Where a push stores, given SP at the instruction's start (R120, STACK_ORDER). -/
def pushAddr (o : Config.StackOrder) (sp : Word) : BitVec 9 :=
  match o with
  | .postDecPreInc => spIndex sp
  | .preDecPostInc => spIndex (sp - 1)

/-- Where a pop loads from, given SP at the instruction's start (R120, STACK_ORDER). -/
def popAddr (o : Config.StackOrder) (sp : Word) : BitVec 9 :=
  match o with
  | .postDecPreInc => spIndex (sp + 1)
  | .preDecPostInc => spIndex sp

/-- Store `v` on the stack and decrement SP, modulo 2^16 (R121, 10_state.md R19). -/
def pushWord (o : Config.StackOrder) (v : Word) (s : State) : State :=
  (dmWrite (pushAddr o s.sp) v s).setSp (s.sp - 1)

/-- Take the word on top of the stack, increment SP, modulo 2^16, and go on with the word (R122). -/
def popWord (o : Config.StackOrder) (s : State) (k : Word → State → State) : Result :=
  withLoaded (popAddr o s.sp) s (fun v => k v (s.setSp (s.sp + 1)))

/-! ## What the host does before a run (70_reset_and_hazards.md R250, R252, R264) -/

/-- Place words in IM from location `a` on. -/
def placeFrom (a : BitVec 10) : List Word → State → State
  | [], s => s
  | w :: ws, s => placeFrom (a + 1) ws (imPlace a w s)

/-- Load a program from address 0 (20_memory.md R46, R264). -/
def loadProgram (ws : List Word) (s : State) : State := placeFrom 0 ws s

/-- What the reset input leaves: the reset state, the instruction memory's contents kept
(10_state.md R31, 70_reset_and_hazards.md R250). -/
def hwReset (s : State) : State := State.reset.setIm s.im

end Sys2Proof.Machine
end

