-- ==== Sys2Proof/Machine/Operands.lean ====
section
/-! DEFINITION. Every operand form: the register fields, the extensions of immediates, the operands and
destinations of the ALU instructions (00_scope.md R4, R6; 30_encoding.md R63, R64; 44_alu_common.md R141). -/

namespace Sys2Proof.Machine

/-- sext_16 of the 9-bit IMM (00_scope.md R4). -/
def sextImm (imm : BitVec 9) : Word := imm.signExtend 16

/-- zext_16 of the 10-bit BA (00_scope.md R4). -/
def zextBa (ba : BitVec 10) : Word := ba.setWidth 16

/-- R(ra), read (00_scope.md R6). -/
def readReg (ra : Reg) (s : State) : Word :=
  match ra with
  | .x => s.x
  | .y => s.y

/-- R(ra) <- v (00_scope.md R6). -/
def writeReg (ra : Reg) (v : Word) (s : State) : State :=
  match ra with
  | .x => s.setX v
  | .y => s.setY v

/-- The register RA_STACK selects, read (10_state.md R11; 42_stack.md R121; 20_memory.md R50). PC reads
as the address of the instruction being executed (10_state.md R13). -/
def readStackReg (ss : StackReg) (s : State) : Word :=
  match ss with
  | .x => s.x
  | .y => s.y
  | .acc => s.acc
  | .pc => s.pc

/-- The popped word into the register RA_STACK selects, and PC: `PC + 1`, but for POP PC, which loads PC
with the word plus 2 (42_stack.md R122). -/
def writePopped (ss : StackReg) (v : Word) (s : State) : State :=
  match ss with
  | .x => nextPc (s.setX v)
  | .y => nextPc (s.setY v)
  | .acc => nextPc (s.setAcc v)
  | .pc => s.setPc (v + 2)

/-- Where an ALU instruction writes its result (44_alu_common.md R141). -/
inductive Dest where
  | acc
  | reg (ra : Reg)
  | none
  deriving DecidableEq, Repr

/-- Write an ALU result; CMP writes no register (R142). -/
def writeDest (d : Dest) (v : Word) (s : State) : State :=
  match d with
  | .acc => s.setAcc v
  | .reg ra => writeReg ra v s
  | .none => s

/-- The operands of an ALU instruction and its destination. -/
structure AluOperands where
  left : Word
  right : Word
  dest : Dest
  deriving DecidableEq, Repr

/-- The two forms: IMM = 0 is ACC op R(RA) into ACC, IMM != 0 is R(RA) op sext_16(IMM) into R(RA);
the test is on the 9-bit field (R141, 30_encoding.md R64). -/
def twoForm (ra : Reg) (imm : BitVec 9) (s : State) : AluOperands :=
  if imm = 0 then { left := s.acc, right := readReg ra s, dest := .acc }
  else { left := readReg ra s, right := sextImm imm, dest := .reg ra }

end Sys2Proof.Machine
end

