-- ==== Sys2Proof/Machine/Alu.lean ====
section
/-! DEFINITION. The arithmetic and logic unit: each operation's result and flags (44_alu_common.md R150 to
R153) and the write-back all ALU instructions share (R142). -/

namespace Sys2Proof.Machine

/-- What the ALU delivers: the 16-bit result and the four flags (R140). -/
structure AluOut where
  res : Word
  flags : Flags
  deriving DecidableEq, Repr

/-- Result to the destination, flags, `PC <- PC + 1` (R142). -/
def writeBack (d : Dest) (o : AluOut) (s : State) : State :=
  nextPc ((writeDest d o.res s).setFlags o.flags)

/-! ## The operations -/

/-- Addition modulo 2^16 (R150). -/
def aluAdd (a b : Word) : AluOut := { res := a + b, flags := addFlags a b (a + b) }

/-- Subtraction modulo 2^16 (R150). -/
def aluSub (a b : Word) : AluOut := { res := a - b, flags := subFlags a b (a - b) }

/-- The low 16 bits of the product (R146, R150). -/
def aluMul (a b : Word) : AluOut := { res := a * b, flags := mulFlags a b (a * b) }

/-- `a div b` under either value of DIV_SIGNED (R150), for `b ≠ 0`. -/
def quotient (signed : Bool) (a b : Word) : Word :=
  if signed then a.sdiv b else BitVec.ofNat 16 (a.toNat / b.toNat)

/-- `a mod b` under either value of DIV_SIGNED (R150), for `b ≠ 0`. -/
def remainder (signed : Bool) (a b : Word) : Word :=
  if signed then a.srem b else BitVec.ofNat 16 (a.toNat % b.toNat)

/-- Quotient; C and V written 0 (R147). DESIGN CHOICE of the spec: unsigned (unsafe, log entry 9; D9). -/
def aluDiv (a b : Word) : AluOut :=
  { res := quotient Config.divSigned a b, flags := plainFlags (quotient Config.divSigned a b) }

/-- Remainder; C and V written 0 (R147). DESIGN CHOICE of the spec: unsigned (unsafe, log entry 9; D9). -/
def aluMod (a b : Word) : AluOut :=
  { res := remainder Config.divSigned a b, flags := plainFlags (remainder Config.divSigned a b) }

/-- Logical shift right by the whole right operand, 0 for a count of 16 or more (R151).
DESIGN CHOICE of the spec (unsafe, log entry 11; D11). -/
def shiftRight (a b : Word) : Word := if b.toNat < 16 then a >>> b.toNat else 0

/-- Shift left by the whole right operand, 0 for a count of 16 or more (R151).
DESIGN CHOICE of the spec (unsafe, log entry 11; D11). -/
def shiftLeft (a b : Word) : Word := if b.toNat < 16 then a <<< b.toNat else 0

def aluLsr (a b : Word) : AluOut := { res := shiftRight a b, flags := plainFlags (shiftRight a b) }

def aluLsl (a b : Word) : AluOut := { res := shiftLeft a b, flags := plainFlags (shiftLeft a b) }

def aluAnd (a b : Word) : AluOut := { res := a &&& b, flags := plainFlags (a &&& b) }

def aluOr (a b : Word) : AluOut := { res := a ||| b, flags := plainFlags (a ||| b) }

def aluXor (a b : Word) : AluOut := { res := a ^^^ b, flags := plainFlags (a ^^^ b) }

def aluNot (a : Word) : AluOut := { res := ~~~a, flags := plainFlags (~~~a) }

/-- The rotate count, `u(b) mod 16` (R152). DESIGN CHOICE of the spec (unsafe, log entry 12; D12). -/
def rotateCount (b : Word) : Nat := b.toNat % 16

/-- Rotate right over the 16 bits (R152). -/
def rotateRight (a b : Word) : Word := (a >>> rotateCount b) ||| (a <<< (16 - rotateCount b))

/-- Rotate left over the 16 bits (R152). -/
def rotateLeft (a b : Word) : Word := (a <<< rotateCount b) ||| (a >>> (16 - rotateCount b))

def aluRsr (a b : Word) : AluOut := { res := rotateRight a b, flags := plainFlags (rotateRight a b) }

def aluRsl (a b : Word) : AluOut := { res := rotateLeft a b, flags := plainFlags (rotateLeft a b) }

/-! ## The classes of ALU instruction (R141) -/

/-- A two-form instruction. -/
def aluTwoForm (op : Word → Word → AluOut) (ra : Reg) (imm : BitVec 9) (s : State) : Result :=
  .next (writeBack (twoForm ra imm s).dest (op (twoForm ra imm s).left (twoForm ra imm s).right) s)

/-- A two-form division: a zero right operand has no result, fault DivideByZero (R150, R163, R164). -/
def aluDivision (op : Word → Word → AluOut) (ra : Reg) (imm : BitVec 9) (s : State) : Result :=
  if (twoForm ra imm s).right = 0 then .fault .divideByZero else aluTwoForm op ra imm s

/-- A comparison: the two forms' operands, no destination. -/
def aluCompare (op : Word → Word → AluOut) (ra : Reg) (imm : BitVec 9) (s : State) : Result :=
  .next (writeBack .none (op (twoForm ra imm s).left (twoForm ra imm s).right) s)

/-- A unary instruction: R(RA) is operand and destination. -/
def aluUnary (op : Word → AluOut) (ra : Reg) (s : State) : Result :=
  .next (writeBack (.reg ra) (op (readReg ra s)) s)

end Sys2Proof.Machine
end

