-- ==== Sys2Proof/Machine/Arith.lean ====
section
/-! DEFINITION. The arithmetic instructions ADD, SUB, MUL, DIV, MOD, CMP, INC, DEC (45_alu_arith.md). -/

namespace Sys2Proof.Machine

/-- ADD (R160). -/
def execAdd (ra : Reg) (imm : BitVec 9) (s : State) : Result := aluTwoForm aluAdd ra imm s

/-- SUB (R161). -/
def execSub (ra : Reg) (imm : BitVec 9) (s : State) : Result := aluTwoForm aluSub ra imm s

/-- MUL (R162). -/
def execMul (ra : Reg) (imm : BitVec 9) (s : State) : Result := aluTwoForm aluMul ra imm s

/-- DIV (R163). -/
def execDiv (ra : Reg) (imm : BitVec 9) (s : State) : Result := aluDivision aluDiv ra imm s

/-- MOD (R164). -/
def execMod (ra : Reg) (imm : BitVec 9) (s : State) : Result := aluDivision aluMod ra imm s

/-- CMP (R165): the flags of SUB, no register. DESIGN CHOICE of the spec (unsafe, log entry 14; D14). -/
def execCmp (ra : Reg) (imm : BitVec 9) (s : State) : Result := aluCompare aluSub ra imm s

/-- INC (R166): an addition of 1. DESIGN CHOICE of the spec for C, V (unsafe, log entry 22; D22). -/
def execInc (ra : Reg) (s : State) : Result := aluUnary (fun a => aluAdd a 1) ra s

/-- DEC (R167): a subtraction of 1. DESIGN CHOICE of the spec for C, V (unsafe, log entry 22; D22). -/
def execDec (ra : Reg) (s : State) : Result := aluUnary (fun a => aluSub a 1) ra s

end Sys2Proof.Machine
end

