-- ==== Sys2Proof/Machine/Branch.lean ====
section
/-! DEFINITION. The branches BRZ, BRN, BRC, BRO, BRA and the two pseudo-instructions JMP, RET (43_branch.md). -/

namespace Sys2Proof.Machine

/-- The branch address if the condition holds, else `PC + 1` (R137). -/
def branchIf (cond : Bool) (ba : BitVec 10) (s : State) : State :=
  if cond then s.setPc (zextBa ba) else nextPc s

/-- BRZ (R130). -/
def execBrz (ba : BitVec 10) (s : State) : Result := .next (branchIf s.flags.z ba s)

/-- BRN (R131). -/
def execBrn (ba : BitVec 10) (s : State) : Result := .next (branchIf s.flags.n ba s)

/-- BRC (R132). -/
def execBrc (ba : BitVec 10) (s : State) : Result := .next (branchIf s.flags.c ba s)

/-- BRO (R133). -/
def execBro (ba : BitVec 10) (s : State) : Result := .next (branchIf s.flags.v ba s)

/-- BRA (R134). -/
def execBra (ba : BitVec 10) (s : State) : Result := .next (branchIf true ba s)

/-- JMP adr (R135), the pseudo-instruction's whole effect: PSH PC, then BRA adr. step never runs it as
one: it fetches the two words one after the other (log entry 26). -/
def execJmp (ba : BitVec 10) (s : State) : Result :=
  .next (branchIf true ba (nextPc (pushWord Config.stackOrder s.pc s)))

/-- RET (R136): POP PC, `PC <- top of stack + 2`. -/
def execRet (s : State) : Result := popWord Config.stackOrder s (writePopped .pc)

end Sys2Proof.Machine
end

