-- ==== Sys2Proof/Machine/Factorial.lean ====
section
/-! DEFINITION. The factorial unit and the instruction FCT (47_factorial.md). The unit runs its clock cycles
inside the one step of FCT, PC held (10_state.md R15, R29). -/

namespace Sys2Proof.Machine

/-- The ALU's output while FCT runs: the timer, zero-extended, times FACT_REG (R203). -/
def factProduct (u : FactUnit) : Word := u.cnt.setWidth 16 * u.reg

/-- FACT_END: the timer has reached 1 (R203). That it is raised while the product by 1 is still to be taken is
the model's, DESIGN CHOICE (log entry 33): 91_not_in_source.md N4 leaves it open. -/
def factEnd (u : FactUnit) : Bool := decide (u.cnt = 1)

/-- One clock cycle: the product is put into FACT_REG and the timer decrements (R203). That the first cycle
multiplies by the value just loaded is DESIGN CHOICE (log entry 33). -/
def factCycle (u : FactUnit) : FactUnit := { u with reg := factProduct u, cnt := u.cnt - 1 }

/-- Load the timer with IMM and raise FACT (R203), before the first cycle: DESIGN CHOICE (log entry 33), since
N4 leaves open in which cycle the timer is loaded. -/
def factLoad (imm : BitVec 9) (u : FactUnit) : FactUnit := { u with running := true, cnt := imm }

/-- Cycle until FACT_END, at most `fuel` cycles. -/
def factRun : Nat → FactUnit → FactUnit
  | 0, u => u
  | k + 1, u => if factEnd u then u else factRun k (factCycle u)

/-- What FCT writes: the ALU's output when FACT_END is raised (R203), the product by 1. That this
multiplication is performed is DESIGN CHOICE (log entry 33; R203 says "if", N4 leaves it open); the value is n!
either way (R200). A timer loaded with 1 to 511 reaches 1 in at most 510 cycles. -/
def factResult (imm : BitVec 9) (u : FactUnit) : Word := factProduct (factRun 510 (factLoad imm u))

/-- The unit after FCT: FACT is 0 and FACT_REG is put back to 1 (10_state.md R29, R203); what the timer
holds is a free value (log entry 27). -/
def factIdle (k : Nat) : FactUnit := { running := false, reg := 1, cnt := Config.freeFactCnt k }

/-- FCT (R200); IMM = 0 has no result, fault FactorialOfZero (R201). One free draw per FCT (log entry 16). -/
def execFct (ra : Reg) (imm : BitVec 9) (s : State) : Result :=
  if imm = 0 then .fault .factorialOfZero
  else .next (((writeBack (.reg ra)
      { res := factResult imm s.fact, flags := fctFlags s.draws (factResult imm s.fact) } s).setFact
      (factIdle s.draws)).setDraws (s.draws + 1))

end Sys2Proof.Machine
end

