-- ==== Sys2Proof/Machine/LoadStore.lean ====
section
/-! DEFINITION. The memory instructions LDR, STR (41_load_store.md): the address is IMM itself, unsigned. -/

namespace Sys2Proof.Machine

/-- LDR (R110). -/
def execLdr (ra : Reg) (imm : BitVec 9) (s : State) : Result :=
  withLoaded imm s (fun v => nextPc (writeReg ra v s))

/-- STR (R111). -/
def execStr (ra : Reg) (imm : BitVec 9) (s : State) : Result :=
  .next (nextPc (dmWrite imm (readReg ra s) s))

end Sys2Proof.Machine
end

