-- ==== Sys2Proof/Machine/LogicShift.lean ====
section
/-! DEFINITION. The logic, shift and rotate instructions LSR, LSL, AND, OR, XOR, NOT, RSR, RSL
(46_alu_logic_shift.md). -/

namespace Sys2Proof.Machine

/-- LSR (R180). -/
def execLsr (ra : Reg) (imm : BitVec 9) (s : State) : Result := aluTwoForm aluLsr ra imm s

/-- LSL (R181). -/
def execLsl (ra : Reg) (imm : BitVec 9) (s : State) : Result := aluTwoForm aluLsl ra imm s

/-- AND (R182). -/
def execAnd (ra : Reg) (imm : BitVec 9) (s : State) : Result := aluTwoForm aluAnd ra imm s

/-- OR (R183). -/
def execOr (ra : Reg) (imm : BitVec 9) (s : State) : Result := aluTwoForm aluOr ra imm s

/-- XOR (R184). -/
def execXor (ra : Reg) (imm : BitVec 9) (s : State) : Result := aluTwoForm aluXor ra imm s

/-- NOT (R185). -/
def execNot (ra : Reg) (s : State) : Result := aluUnary aluNot ra s

/-- RSR (R186). -/
def execRsr (ra : Reg) (imm : BitVec 9) (s : State) : Result := aluTwoForm aluRsr ra imm s

/-- RSL (R187). -/
def execRsl (ra : Reg) (imm : BitVec 9) (s : State) : Result := aluTwoForm aluRsl ra imm s

end Sys2Proof.Machine
end

