-- ==== Sys2Proof/Machine/MovNop.lean ====
section
/-! DEFINITION. MOV and NOP (48_mov_nop.md). -/

namespace Sys2Proof.Machine

/-- MOV (R210). -/
def execMov (ra : Reg) (imm : BitVec 9) (s : State) : Result :=
  .next (nextPc (writeReg ra (sextImm imm) s))

/-- NOP (R211). -/
def execNop (s : State) : Result := .next (nextPc s)

end Sys2Proof.Machine
end

