-- ==== Sys2Proof/Machine/Stack.lean ====
section
/-! DEFINITION. The stack instructions PSH, POP (42_stack.md). -/

namespace Sys2Proof.Machine

/-- PSH (R121); PSH PC stores the address of the PSH itself. -/
def execPsh (ss : StackReg) (s : State) : Result :=
  .next (nextPc (pushWord Config.stackOrder (readStackReg ss s) s))

/-- POP (R122). -/
def execPop (ss : StackReg) (s : State) : Result :=
  popWord Config.stackOrder s (writePopped ss)

end Sys2Proof.Machine
end

