-- ==== Sys2Proof/Machine/Transfer.lean ====
section
/-! DEFINITION. The accumulator-to-register transfers TRX, TRY (40_transfer.md). -/

namespace Sys2Proof.Machine

/-- TRX (R100). -/
def execTrx (s : State) : Result := .next (nextPc (s.setX s.acc))

/-- TRY (R101). -/
def execTry (s : State) : Result := .next (nextPc (s.setY s.acc))

end Sys2Proof.Machine
end

