-- ==== Sys2Proof/Machine/Dispatch.lean ====
section
/-! DEFINITION. What each instruction does: one arm per constructor. -/

namespace Sys2Proof.Machine

def exec (i : Instr) (s : State) : Host.Outcome State Fault Refusal :=
  match i with
  | .trx => Sys2Proof.Machine.execTrx s
  | .try_ => Sys2Proof.Machine.execTry s
  | .ldr ra imm => Sys2Proof.Machine.execLdr ra imm s
  | .str ra imm => Sys2Proof.Machine.execStr ra imm s
  | .psh ss => Sys2Proof.Machine.execPsh ss s
  | .pop ss => Sys2Proof.Machine.execPop ss s
  | .brz ba => Sys2Proof.Machine.execBrz ba s
  | .brn ba => Sys2Proof.Machine.execBrn ba s
  | .brc ba => Sys2Proof.Machine.execBrc ba s
  | .bro ba => Sys2Proof.Machine.execBro ba s
  | .bra ba => Sys2Proof.Machine.execBra ba s
  | .add ra imm => Sys2Proof.Machine.execAdd ra imm s
  | .sub ra imm => Sys2Proof.Machine.execSub ra imm s
  | .lsr ra imm => Sys2Proof.Machine.execLsr ra imm s
  | .lsl ra imm => Sys2Proof.Machine.execLsl ra imm s
  | .mul ra imm => Sys2Proof.Machine.execMul ra imm s
  | .div ra imm => Sys2Proof.Machine.execDiv ra imm s
  | .mod ra imm => Sys2Proof.Machine.execMod ra imm s
  | .cmp ra imm => Sys2Proof.Machine.execCmp ra imm s
  | .inc ra => Sys2Proof.Machine.execInc ra s
  | .dec ra => Sys2Proof.Machine.execDec ra s
  | .and ra imm => Sys2Proof.Machine.execAnd ra imm s
  | .or ra imm => Sys2Proof.Machine.execOr ra imm s
  | .xor ra imm => Sys2Proof.Machine.execXor ra imm s
  | .not ra => Sys2Proof.Machine.execNot ra s
  | .rsr ra imm => Sys2Proof.Machine.execRsr ra imm s
  | .rsl ra imm => Sys2Proof.Machine.execRsl ra imm s
  | .fct ra imm => Sys2Proof.Machine.execFct ra imm s
  | .mov ra imm => Sys2Proof.Machine.execMov ra imm s
  | .nop => Sys2Proof.Machine.execNop s
  | .jmp ba => Sys2Proof.Machine.execJmp ba s
  | .ret => Sys2Proof.Machine.execRet s

end Sys2Proof.Machine
end

