-- ==== Sys2Proof/Machine/Step.lean ====
section
/-! DEFINITION. One step: fetch IM[PC[9:0]], decode, execute (10_state.md R14, 30_encoding.md R65,
00_scope.md R7), with the fetch and decode faults of 60_exceptions.md R221 in their order. -/

namespace Sys2Proof.Machine

/-- One step of the machine is one instruction (00_scope.md R7, R9). -/
def step (s : State) : Host.Outcome State Fault Refusal :=
  match s.ir with
  | none => .fault .unloadedInstruction
  | some w =>
    match decode w with
    | .ok i => exec i s
    | .illegalOpcode => .fault .illegalOpcode
    | .reservedEncoding => .fault .reservedEncoding

/-- `s` with a table entry's word (the two words of a 32-bit entry, first word first) placed in IM where
the next fetch reads, as a host does before a run (log entries 21, 26). -/
def State.withFetchWord (s : State) (nbits w : Nat) : State :=
  if nbits ≤ 16 then imPlace (pcIndex s.pc) (tableFirstWord nbits w) s
  else imPlace (pcIndex s.pc + 1) (tableSecondWord w) (imPlace (pcIndex s.pc) (tableFirstWord nbits w) s)

end Sys2Proof.Machine
end

