-- ==== Sys2Proof/Machine/Control.lean ====
section
/-! DEFINITION. The control unit's outputs and the multiplexers they drive (30_encoding.md R74 to R76,
20_memory.md R49, R50). Information beside the meanings: exec does not go through it; an obligation
says that exec writes what these signals select. -/

namespace Sys2Proof.Machine

/-- The 19 control outputs of the control unit (R74). -/
structure ControlSignals where
  alu : Bool := false
  bra : Bool := false
  condBra : Bool := false
  requiresZero : Bool := false
  requiresNegative : Bool := false
  requiresCarry : Bool := false
  requiresOverflow : Bool := false
  load : Bool := false
  store : Bool := false
  tr : Bool := false
  stackPsh : Bool := false
  stackPop : Bool := false
  mov : Bool := false
  flagSelect : Bool := false
  accSelect : Bool := false
  xSelect : Bool := false
  ySelect : Bool := false
  pcSelect : Bool := false
  fact : Bool := false
  deriving DecidableEq, Repr

/-- X_select or Y_select by RA. -/
def selectReg (ra : Reg) (c : ControlSignals) : ControlSignals :=
  match ra with
  | .x => { c with xSelect := true }
  | .y => { c with ySelect := true }

/-- The select of the register RA_STACK names. -/
def selectStackReg (ss : StackReg) (c : ControlSignals) : ControlSignals :=
  match ss with
  | .x => { c with xSelect := true }
  | .y => { c with ySelect := true }
  | .acc => { c with accSelect := true }
  | .pc => { c with pcSelect := true }

/-- A two-form ALU instruction: ACC_select if IMM = 0, else X_select or Y_select (R76). -/
def controlTwoForm (ra : Reg) (imm : BitVec 9) : ControlSignals :=
  if imm = 0 then { alu := true, flagSelect := true, accSelect := true }
  else selectReg ra { alu := true, flagSelect := true }

/-- An ALU instruction on R(RA) (R76). -/
def controlUnary (ra : Reg) : ControlSignals := selectReg ra { alu := true, flagSelect := true }

/-- PC_select of a conditional branch; of one not taken it is not stated (R76; log entry 30). -/
def branchSelect (taken : Bool) : Bool := taken || Config.pcSelectNotTaken

/-- The signals an instruction raises, given FACT_END and the flags (R76); FACT is 1 until FACT_END, and
FCT selects its register only then. The control unit never sees JMP or RET, only their words. -/
def control (i : Instr) (factEnd : Bool) (f : Flags) : ControlSignals :=
  match i with
  | .trx => { tr := true, xSelect := true }
  | .try_ => { tr := true, ySelect := true }
  | .ldr ra _ => selectReg ra { load := true }
  | .str ra _ => selectReg ra { store := true }
  | .psh ss => selectStackReg ss { store := true, stackPsh := true }
  | .pop ss => selectStackReg ss { load := true, stackPop := true }
  | .brz _ => { bra := true, condBra := true, requiresZero := true, pcSelect := branchSelect f.z }
  | .brn _ => { bra := true, condBra := true, requiresNegative := true, pcSelect := branchSelect f.n }
  | .brc _ => { bra := true, condBra := true, requiresCarry := true, pcSelect := branchSelect f.c }
  | .bro _ => { bra := true, condBra := true, requiresOverflow := true, pcSelect := branchSelect f.v }
  | .bra _ => { bra := true, pcSelect := true }
  | .add ra imm => controlTwoForm ra imm
  | .sub ra imm => controlTwoForm ra imm
  | .lsr ra imm => controlTwoForm ra imm
  | .lsl ra imm => controlTwoForm ra imm
  | .mul ra imm => controlTwoForm ra imm
  | .div ra imm => controlTwoForm ra imm
  | .mod ra imm => controlTwoForm ra imm
  | .cmp _ _ => { alu := true, flagSelect := true }
  | .inc ra => controlUnary ra
  | .dec ra => controlUnary ra
  | .and ra imm => controlTwoForm ra imm
  | .or ra imm => controlTwoForm ra imm
  | .xor ra imm => controlTwoForm ra imm
  | .not ra => controlUnary ra
  | .rsr ra imm => controlTwoForm ra imm
  | .rsl ra imm => controlTwoForm ra imm
  | .fct ra _ =>
    if factEnd then selectReg ra { alu := true, flagSelect := true }
    else { alu := true, flagSelect := true, fact := true }
  | .mov ra _ => selectReg ra { mov := true }
  | .nop => {}
  | .jmp _ => {}
  | .ret => {}

/-- The input multiplexer of ACC, X and Y: the ALU result, the sign-extended immediate, the data memory
output or the accumulator (R75). -/
def registerInput (c : ControlSignals) (inAlu inMov inDm inAcc : Word) : Word :=
  if c.alu then inAlu else if c.mov then inMov else if c.load then inDm else inAcc

/-- The condition under which a branch writes PC: COND_BRA = 0 or the required flag is 1 (43_branch.md R138). -/
def branchTaken (c : ControlSignals) (f : Flags) : Bool :=
  c.bra && (!c.condBra || (c.requiresZero && f.z) || (c.requiresNegative && f.n) ||
    (c.requiresCarry && f.c) || (c.requiresOverflow && f.v))

/-- The data memory's address multiplexer: IMM, or the stack pointer's input for PSH and POP
(20_memory.md R49, with the order of R121, R122). -/
def dmAddress (c : ControlSignals) (imm : BitVec 9) (s : State) : BitVec 9 :=
  if c.stackPsh then pushAddr Config.stackOrder s.sp
  else if c.stackPop then popAddr Config.stackOrder s.sp
  else imm

/-- The data memory's input multiplexer: X, Y, ACC or PC (20_memory.md R50). -/
def dmData (c : ControlSignals) (s : State) : Word :=
  if c.xSelect then s.x else if c.ySelect then s.y else if c.accSelect then s.acc else s.pc

end Sys2Proof.Machine
end

