-- ==== Sys2Proof/Safety.lean ====
section
/-! DEFINITION. What a completed, undisturbed run is (70_reset_and_hazards.md R262, R263), the invariant of
the machine, and the vocabulary of claims: the spec's tables of who reads and writes what, and frames. -/

namespace Sys2Proof.Machine

/-! ## The end of a run -/

/-- The machine stands at a branch to itself: PC = a ≤ 1023 and the word there is `0x2800 | a`, BRA a
(R262). The spec's convention (D16, log entry 17): step itself goes on executing that branch. -/
def atEnd (s : State) : Bool := decide (s.pc.toNat ≤ 1023) && decide (s.ir = some (0x2800 ||| s.pc))

/-- A run from `s` completes in `t`. -/
def Completes (s t : State) : Prop :=
  ∃ k, Host.Core.run Sys2Proof.core k s = .next t ∧ atEnd t = true

/-- A run from `s` stops with the fault `f`; such a run never completed (60_exceptions.md R221). -/
def FaultsWith (s : State) (f : Fault) : Prop := ∃ k, Host.Core.run Sys2Proof.core k s = .fault f

/-! ## The invariant -/

/-- Both memories are in canonical form inside their sizes, no factorial is running and FACT_REG is 1, as
at every instruction boundary (10_state.md R25, R26, R29). -/
def State.Inv (s : State) : Prop :=
  Memory.wf dmInit Config.dmSize s.dm ∧ Memory.wf imInit Config.imSize s.im ∧
  s.fact.running = false ∧ s.fact.reg = 1

/-! ## Words as the instruction rules write them -/

/-- `base | RA << 9`, the word formula of format FU and the register part of FM. -/
def regWord (base : Word) (ra : Reg) : Word :=
  match ra with
  | .x => base
  | .y => base ||| 0x0200

/-- `base | RA << 9 | IMM`, the word formula of the rules of format FM (R110 to R210). -/
def immWord (base : Word) (ra : Reg) (imm : BitVec 9) : Word := regWord base ra ||| imm.setWidth 16

/-- `base | BA`, the word formula of the branches (R130 to R134). -/
def branchWord (base : Word) (ba : BitVec 10) : Word := base ||| ba.setWidth 16

/-- The words PSH X, PSH Y, PSH ACC, PSH PC differ by 0x0100 (R121); the same for POP (R122). -/
def stackWord (base : Word) (ss : StackReg) : Word :=
  match ss with
  | .x => base
  | .y => base + 0x0100
  | .acc => base + 0x0200
  | .pc => base + 0x0300

/-- The opcode is one of 001011, 001100, 011111..111110 (30_encoding.md R67). -/
def unassignedOpcode (w : Word) : Prop :=
  w.toNat / 1024 = 11 ∨ w.toNat / 1024 = 12 ∨ (31 ≤ w.toNat / 1024 ∧ w.toNat / 1024 ≤ 62)

/-- A 1 among the must-be-zero bits of TRX, TRY, NOP, of PSH, POP, or of INC, DEC, NOT (30_encoding.md R68). -/
def reservedBits (w : Word) : Prop :=
  ((w.toNat / 1024 = 0 ∨ w.toNat / 1024 = 1 ∨ w.toNat / 1024 = 63) ∧ w.toNat % 1024 ≠ 0) ∨
  ((w.toNat / 1024 = 4 ∨ w.toNat / 1024 = 5) ∧ w.toNat % 256 ≠ 0) ∨
  ((w.toNat / 1024 = 21 ∨ w.toNat / 1024 = 22 ∨ w.toNat / 1024 = 26) ∧ w.toNat % 512 ≠ 0)

/-! ## Who reads and writes what -/

/-- The 17 instructions of Tabela 5 (44_alu_common.md R140, 10_state.md R21). -/
def isAlu : Instr → Bool
  | .add _ _ | .sub _ _ | .lsr _ _ | .lsl _ _ | .mul _ _ | .div _ _ | .mod _ _ | .cmp _ _ | .inc _
  | .dec _ | .and _ _ | .or _ _ | .xor _ _ | .not _ | .rsr _ _ | .rsl _ _ | .fct _ _ => true
  | .trx | .try_ | .ldr _ _ | .str _ _ | .psh _ | .pop _ | .brz _ | .brn _ | .brc _ | .bro _ | .bra _
  | .mov _ _ | .nop | .jmp _ | .ret => false

/-- RA and IMM of a two-form ALU instruction (44_alu_common.md R141). -/
def twoFormFields : Instr → Option (Reg × BitVec 9)
  | .add ra imm | .sub ra imm | .lsr ra imm | .lsl ra imm | .mul ra imm | .div ra imm | .mod ra imm
  | .and ra imm | .or ra imm | .xor ra imm | .rsr ra imm | .rsl ra imm => some (ra, imm)
  | .cmp _ _ | .inc _ | .dec _ | .not _ | .fct _ _ | .trx | .try_ | .ldr _ _ | .str _ _ | .psh _ | .pop _
  | .brz _ | .brn _ | .brc _ | .bro _ | .bra _ | .mov _ _ | .nop | .jmp _ | .ret => none

/-- "ALU-acc" of 10_state.md R12. -/
def isAluAcc (i : Instr) : Bool :=
  match twoFormFields i with
  | some (_, imm) => decide (imm = 0)
  | none => false

/-- "ALU-acc" or "ALU-imm" with this RA (10_state.md R12). -/
def isTwoFormOn (r : Reg) (i : Instr) : Bool :=
  match twoFormFields i with
  | some (ra, _) => decide (ra = r)
  | none => false

/-- "ALU-imm" with this RA (10_state.md R12). -/
def isAluImmOn (r : Reg) (i : Instr) : Bool := isTwoFormOn r i && !isAluAcc i

/-- The ACC row of 10_state.md R12, "read by". -/
def readsAcc (i : Instr) : Bool :=
  isAluAcc i ||
  match i with
  | .trx | .try_ => true
  | .psh ss => decide (ss = .acc)
  | .cmp _ imm => decide (imm = 0)
  | _ => false

/-- The ACC row of 10_state.md R12, "written by". -/
def writesAcc (i : Instr) : Bool :=
  isAluAcc i ||
  match i with
  | .pop ss => decide (ss = .acc)
  | _ => false

/-- The X and Y rows of 10_state.md R12, "read by". -/
def readsReg (r : Reg) (i : Instr) : Bool :=
  isTwoFormOn r i ||
  match i with
  | .str ra _ | .cmp ra _ | .inc ra | .dec ra | .not ra => decide (ra = r)
  | .psh ss => decide (ss = match r with | .x => StackReg.x | .y => StackReg.y)
  | _ => false

/-- The X and Y rows of 10_state.md R12, "written by". -/
def writesReg (r : Reg) (i : Instr) : Bool :=
  isAluImmOn r i ||
  match i with
  | .trx => decide (r = .x)
  | .try_ => decide (r = .y)
  | .ldr ra _ | .mov ra _ | .inc ra | .dec ra | .not ra | .fct ra _ => decide (ra = r)
  | .pop ss => decide (ss = match r with | .x => StackReg.x | .y => StackReg.y)
  | _ => false

/-- The flag a conditional branch tests (10_state.md R21). -/
def testedFlag (f : Flags) : Instr → Option Bool
  | .brz _ => some f.z
  | .brn _ => some f.n
  | .brc _ => some f.c
  | .bro _ => some f.v
  | _ => none

/-- The data memory word an instruction reads: LDR, POP and RET only (10_state.md R26). -/
def loadAddress (i : Instr) (s : State) : Option (BitVec 9) :=
  match i with
  | .ldr _ imm => some imm
  | .pop _ | .ret => some (popAddr Config.stackOrder s.sp)
  | _ => none

/-- The data memory word an instruction writes, and with what: STR, PSH and JMP's PSH only (10_state.md R26). -/
def storeOf (i : Instr) (s : State) : Option (BitVec 9 × Word) :=
  match i with
  | .str ra imm => some (imm, readReg ra s)
  | .psh ss => some (pushAddr Config.stackOrder s.sp, readStackReg ss s)
  | .jmp _ => some (pushAddr Config.stackOrder s.sp, s.pc)
  | _ => none

/-- An outcome with its next state, if it has one, seen through `f`; used to leave one register's value
out of account. -/
def Result.map (f : State → State) : Result → Result
  | .next t => .next (f t)
  | .fault r => .fault r
  | .refused r => .refused r

/-! ## Frames -/

/-- The register RA does not name. -/
def otherReg (ra : Reg) : Reg :=
  match ra with
  | .x => .y
  | .y => .x

/-- Every word of both memories reads as before. -/
def SameMemories (s t : State) : Prop :=
  (∀ a : BitVec 9, dmRead a t = dmRead a s) ∧ (∀ a : BitVec 10, imRead a t = imRead a s)

/-- Every instruction memory word reads as before, and every data memory word but the one at `a`. -/
def SameMemoriesBut (a : BitVec 9) (s t : State) : Prop :=
  (∀ b : BitVec 9, b ≠ a → dmRead b t = dmRead b s) ∧ (∀ b : BitVec 10, imRead b t = imRead b s)

/-- The factorial unit and the model's counter of free draws are as before. -/
def SameUnit (s t : State) : Prop := t.fact = s.fact ∧ t.draws = s.draws

/-- ACC, X and Y are as before. -/
def SameData (s t : State) : Prop := t.acc = s.acc ∧ t.x = s.x ∧ t.y = s.y

/-- R(ra) is `v`, the other register and ACC are as before. -/
def OnlyReg (ra : Reg) (v : Word) (s t : State) : Prop :=
  readReg ra t = v ∧ readReg (otherReg ra) t = readReg (otherReg ra) s ∧ t.acc = s.acc

/-- The left operand of the two forms, as 44_alu_common.md R141 tabulates it. -/
def leftOperand (ra : Reg) (imm : BitVec 9) (s : State) : Word :=
  if imm = 0 then s.acc else readReg ra s

/-- The right operand of the two forms, as 44_alu_common.md R141 tabulates it. -/
def rightOperand (ra : Reg) (imm : BitVec 9) (s : State) : Word :=
  if imm = 0 then readReg ra s else sextImm imm

/-- What an ALU instruction other than FCT does beside its register: the flags are those given, PC is one
more, SP, both memories and the factorial unit are as before. -/
def AluFrame (z n c v : Bool) (s t : State) : Prop :=
  t.flags = { z := z, n := n, c := c, v := v } ∧ t.pc = s.pc + 1 ∧ t.sp = s.sp ∧
  SameMemories s t ∧ SameUnit s t

/-- The write of a two-form result: ACC and nothing else if IMM = 0, R(RA) and nothing else if not
(44_alu_common.md R141). -/
def TwoFormWrite (ra : Reg) (imm : BitVec 9) (res : Word) (s t : State) : Prop :=
  (imm = 0 → t.acc = res ∧ t.x = s.x ∧ t.y = s.y) ∧ (imm ≠ 0 → OnlyReg ra res s t)

/-- The frame of an instruction that touches no flag, SP, memory or factorial unit and advances PC by 1. -/
def PlainFrame (s t : State) : Prop :=
  t.pc = s.pc + 1 ∧ t.sp = s.sp ∧ t.flags = s.flags ∧ SameMemories s t ∧ SameUnit s t

end Sys2Proof.Machine
end

