-- ==== Sys2Proof/Certificates/Slice0/Obligations.lean ====
section
/-! DEFINITION. The statements for the provers. Each docstring names the rule of spec/ it formalises, or
the spec's decision and the model's log entry it rests on. -/

open Sys2Proof Sys2Proof.Machine

/-! ## Reset and the start of a run -/

/-- 10_state.md R22: after reset all four flags are 0. -/
def Obligations.ResetClearsFlags : Prop :=
  State.reset.flags.toBits = 0 ∧ ∀ s : State,
    (hwReset s).flags.z = false ∧ (hwReset s).flags.n = false ∧
    (hwReset s).flags.c = false ∧ (hwReset s).flags.v = false

/-- 10_state.md section 8. PC = 0x0000 rests on D1 (log entry 3); ACC = X = Y = 0 and FACT_CNT = 0 are the
model's choices (log entries 1, 27); that no data memory word holds a value is D3 (log entry 2). -/
def Obligations.ResetLeaves : Prop :=
  ∀ s : State,
    (hwReset s).pc = 0x0000 ∧ (hwReset s).sp = 0x01FF ∧ (hwReset s).flags.toBits = 0 ∧
    (hwReset s).fact = { running := false, reg := 1, cnt := 0 } ∧
    (hwReset s).acc = 0 ∧ (hwReset s).x = 0 ∧ (hwReset s).y = 0 ∧
    (∀ a : BitVec 9, dmRead a (hwReset s) = none) ∧
    (∀ a : BitVec 10, imRead a (hwReset s) = imRead a s) ∧ (hwReset s).setIm [] = State.reset

/-- 10_state.md section 4: FLAGS is the 4-bit value with ZERO in bit 3, NEGATIVE in bit 2, CARRY in bit 1 and
OVERFLOW in bit 0. -/
def Obligations.FlagsRegisterNumbering : Prop :=
  ∀ f : Flags, f.toBits.getLsbD 3 = f.z ∧ f.toBits.getLsbD 2 = f.n ∧ f.toBits.getLsbD 1 = f.c ∧
    f.toBits.getLsbD 0 = f.v

/-- 70_reset_and_hazards.md R251: the first instruction executed after reset is IM[0], with the state
reset leaves. -/
def Obligations.FirstInstructionAfterReset : Prop :=
  ∀ (s : State) (w : Word) (i : Instr), imRead 0 s = some w → decode w = .ok i →
    (hwReset s).ir = some w ∧ step (hwReset s) = exec i (hwReset s)

/-- 20_memory.md section 2 and 70_reset_and_hazards.md section 7 (the host's load): a program of at most 1024 words stands in
the instruction memory from address 0, word k at location k; no other location and nothing else changes. -/
def Obligations.LoadPlacesProgram : Prop :=
  ∀ (ws : List Word) (s : State), ws.length ≤ 1024 →
    (∀ a : BitVec 10, imRead a (loadProgram ws s) =
      if a.toNat < ws.length then ws[a.toNat]? else imRead a s) ∧
    (loadProgram ws s).setIm s.im = s

/-- Log entry 21: the word withFetchWord places is the one the next step fetches, and nothing but the
instruction memory changes. -/
def Obligations.FetchWordIsFetched : Prop :=
  ∀ (s : State) (w : Nat), w < 2 ^ 16 →
    (s.withFetchWord 16 w).ir = some (BitVec.ofNat 16 w) ∧ (s.withFetchWord 16 w).setIm s.im = s ∧
    ∀ a : BitVec 10, a ≠ pcIndex s.pc → imRead a (s.withFetchWord 16 w) = imRead a s

/-! ## Fetch, decode, encode -/

/-- 10_state.md R14: the instruction executed in a step is IM[PC[9:0]], the upper 6 bits of PC take no
part in the fetch; and a step is exactly exec of the decoded instruction, nothing is added around it. -/
def Obligations.StepRunsTheDecodedInstruction : Prop :=
  (∀ (s : State) (w : Word) (i : Instr), imRead (BitVec.ofNat 10 (s.pc.toNat % 1024)) s = some w →
    decode w = .ok i → step s = exec i s) ∧
  (∀ (s t : State), t.pc.toNat % 1024 = s.pc.toNat % 1024 → t.im = s.im → t.ir = s.ir)

/-- 30_encoding.md section 3 and 60_exceptions.md (orders 1 to 3 of the list of faults): an unloaded
location, an unassigned opcode, a reserved encoding. The spec's decisions D21, D7, D8 (log entries 21, 7, 8). -/
def Obligations.FetchAndDecodeFaults : Prop :=
  ∀ s : State,
    (imRead (pcIndex s.pc) s = none → step s = .fault .unloadedInstruction) ∧
    (∀ w, imRead (pcIndex s.pc) s = some w → unassignedOpcode w → step s = .fault .illegalOpcode) ∧
    (∀ w, imRead (pcIndex s.pc) s = some w → reservedBits w → step s = .fault .reservedEncoding)

/-- 30_encoding.md sections 3 and 5: which words are no instruction, and why; every other word is one.
The spec's decisions D7, D8 (log entries 7, 8). -/
def Obligations.DecodeRejectsExactly : Prop :=
  ∀ w : Word,
    (decode w = .illegalOpcode ↔ unassignedOpcode w) ∧ (decode w = .reservedEncoding ↔ reservedBits w) ∧
    ((∃ i, decode w = .ok i) ↔ ¬ unassignedOpcode w ∧ ¬ reservedBits w)

/-- 30_encoding.md R66: a word I is a row's instruction iff I & mask = match. -/
def Obligations.OpcodeMapIsDecoded : Prop :=
  ∀ (row : OpRow), row ∈ opcodeRows → ∀ w : Word,
    (w &&& row.mask = row.pattern ↔ ∃ i, decode w = .ok i ∧ i.mnemonic = row.mnemonic)

/-- 30_encoding.md R61: opcode = I[15:10], RA = I[9], RA_STACK = I[9:8], BA = I[9:0], IMM = I[8:0], with the
register codes of the field table. -/
def Obligations.FieldsOfAWord : Prop :=
  ∀ w : Word,
    (opcodeField w).toNat = w.toNat / 1024 ∧
    raField w = (if w.toNat / 512 % 2 = 0 then .x else .y) ∧
    raStackField w = (if w.toNat / 256 % 4 = 0 then .x else if w.toNat / 256 % 4 = 1 then .y
      else if w.toNat / 256 % 4 = 2 then .acc else .pc) ∧
    (baField w).toNat = w.toNat % 1024 ∧ (immField w).toNat = w.toNat % 512

/-- One word of each format and family, written out bit by bit (30_encoding.md section 4, 95_test_vectors.md
section 2). -/
def Obligations.WordsDecodeAsWritten : Prop :=
  decode 0b0000010000000000 = .ok .try_ ∧ decode 0b0000101111111111 = .ok (.ldr .y 511) ∧
  decode 0b0001001100000000 = .ok (.psh .pc) ∧ decode 0b0001110000101010 = .ok (.brn 42) ∧
  decode 0b0011101000000101 = .ok (.sub .y 5) ∧ decode 0b0101011000000000 = .ok (.inc .y) ∧
  decode 0b0110111111111111 = .ok (.rsr .y 0b111111111) ∧ decode 0b0111010000000101 = .ok (.fct .x 5) ∧
  decode 0b0111100111111101 = .ok (.mov .x 0b111111101) ∧ decode 0b1111110000000000 = .ok .nop

/-- 30_encoding.md sections 1 to 4, 7: decoding the words of an instruction gives the machine instructions
it stands for, which for each of the 30 machine instructions is the instruction itself, with every operand. -/
def Obligations.DecodeOfEncode : Prop :=
  ∀ i : Instr, (encode i).map decode = i.expand.map Decoded.ok ∧ (i.WellFormed → i.expand = [i])

/-- 30_encoding.md sections 3, 4: each word has one meaning: what a word decodes to is a machine
instruction whose only word is that word. -/
def Obligations.EncodeOfDecode : Prop :=
  ∀ (w : Word) (i : Instr), decode w = .ok i → i.WellFormed ∧ encode i = [w]

/-- 00_scope.md R4: sext_16 of the 9-bit IMM copies bit 8 into bits 15..9, zext_16 of the 10-bit BA puts 0
into bits 15..10. -/
def Obligations.ExtensionsOfImmAndBa : Prop :=
  (∀ (imm : BitVec 9) (k : Nat), k < 16 →
    (sextImm imm).getLsbD k = if k < 9 then imm.getLsbD k else imm.getLsbD 8) ∧
  (∀ (ba : BitVec 10) (k : Nat), k < 16 →
    (zextBa ba).getLsbD k = if k < 10 then ba.getLsbD k else false)

/-! ## Transfers, loads and stores -/

/-- 40_transfer.md R100, R101: TRX and TRY copy ACC into X and Y; 0x0000 and 0x0400 are their only words. -/
def Obligations.TransferResults : Prop :=
  (∀ w, decode w = .ok .trx ↔ w = 0x0000) ∧ (∀ w, decode w = .ok .try_ ↔ w = 0x0400) ∧
  ∀ s : State,
    (∃ t, exec .trx s = .next t ∧ OnlyReg .x s.acc s t ∧ PlainFrame s t) ∧
    (∃ t, exec .try_ s = .next t ∧ OnlyReg .y s.acc s t ∧ PlainFrame s t)

/-- 41_load_store.md (LDR): LDR loads R(RA) with the whole word at IMM, unsigned; no register but R(RA), no flag,
no memory word changes. That a word nothing has written holds no value and is fault UninitialisedRead is the
model's DESIGN CHOICE, the default of the spec's decision D3 (log entry 2). -/
def Obligations.LdrResult : Prop :=
  ∀ (ra : Reg) (imm : BitVec 9) (s : State),
    decode (immWord 0x0800 ra imm) = .ok (.ldr ra imm) ∧
    (∀ v, dmRead imm s = some v →
      ∃ t, exec (.ldr ra imm) s = .next t ∧ OnlyReg ra v s t ∧ PlainFrame s t) ∧
    (dmRead imm s = none → exec (.ldr ra imm) s = .fault .uninitialisedRead)

/-- 41_load_store.md R111: STR stores R(RA) at IMM; no register, flag or other memory word changes. -/
def Obligations.StrResult : Prop :=
  ∀ (ra : Reg) (imm : BitVec 9) (s : State),
    decode (immWord 0x0C00 ra imm) = .ok (.str ra imm) ∧
    ∃ t, exec (.str ra imm) s = .next t ∧ dmRead imm t = some (readReg ra s) ∧ SameMemoriesBut imm s t ∧
      SameData s t ∧ t.pc = s.pc + 1 ∧ t.sp = s.sp ∧ t.flags = s.flags ∧ SameUnit s t

/-! ## The stack -/

/-- 42_stack.md section 2 (PSH): the register RA_STACK selects is stored at SP[8:0] as SP stands before, SP
goes down by 1 modulo 2^16; PSH PC stores the address of the PSH itself. That the store precedes the
decrement is the spec's decision D4, the wrap D5 (log entries 4, 5). -/
def Obligations.PshResult : Prop :=
  ∀ (ss : StackReg) (s : State),
    decode (stackWord 0x1000 ss) = .ok (.psh ss) ∧
    ∃ t, exec (.psh ss) s = .next t ∧
      dmRead (BitVec.ofNat 9 (s.sp.toNat % 512)) t =
        some (match ss with | .x => s.x | .y => s.y | .acc => s.acc | .pc => s.pc) ∧
      SameMemoriesBut (BitVec.ofNat 9 (s.sp.toNat % 512)) s t ∧ t.sp = s.sp - 1 ∧
      SameData s t ∧ t.pc = s.pc + 1 ∧ t.flags = s.flags ∧ SameUnit s t

/-- 42_stack.md section 2 (POP): SP goes up by 1 modulo 2^16 and the word at the new SP[8:0] goes to the
register RA_STACK selects, to PC plus 2; PC goes up by 1 otherwise; a word that holds no value is fault
UninitialisedRead (D3, log entry 2). That the increment precedes the load is D4, the wrap D5 (log entries 4, 5). -/
def Obligations.PopResult : Prop :=
  ∀ (ss : StackReg) (s : State),
    decode (stackWord 0x1400 ss) = .ok (.pop ss) ∧
    (∀ v, dmRead (BitVec.ofNat 9 ((s.sp.toNat + 1) % 512)) s = some v →
      ∃ t, exec (.pop ss) s = .next t ∧
        t.acc = (if ss = .acc then v else s.acc) ∧ t.x = (if ss = .x then v else s.x) ∧
        t.y = (if ss = .y then v else s.y) ∧ t.pc = (if ss = .pc then v + 2 else s.pc + 1) ∧
        t.sp = s.sp + 1 ∧ t.flags = s.flags ∧ SameMemories s t ∧ SameUnit s t) ∧
    (dmRead (BitVec.ofNat 9 ((s.sp.toNat + 1) % 512)) s = none →
      exec (.pop ss) s = .fault .uninitialisedRead)

/-- 42_stack.md section 2, the stack law, the spec's derivation: after PSH r, in any later state whose SP is as the PSH left
it and whose word at the pushed address still is what the PSH stored, POP q leaves in q the value r had and
SP as it was before the PSH. The operations obey it under either value of STACK_ORDER (D4, log entry 4); SP counts
modulo 2^16 (D5, log entry 5). -/
def Obligations.PopReturnsWhatPshStored : Prop :=
  (∀ (o : Config.StackOrder) (v : Word) (s u : State) (k : Word → State → State),
    u.sp = (pushWord o v s).sp → dmRead (pushAddr o s.sp) u = dmRead (pushAddr o s.sp) (pushWord o v s) →
    popWord o u k = .next (k v (u.setSp s.sp))) ∧
  (∀ (r q : StackReg) (s t u : State), exec (.psh r) s = .next t → u.sp = t.sp →
    dmRead (pushAddr Config.stackOrder s.sp) u = dmRead (pushAddr Config.stackOrder s.sp) t →
    ∃ e, exec (.pop q) u = .next e ∧ e.sp = s.sp ∧
      (q ≠ .pc → readStackReg q e = readStackReg r s) ∧ (q = .pc → e.pc = readStackReg r s + 2))

/-! ## Branches, calls and returns -/

/-- 43_branch.md R130 to R133: PC becomes zext_16(BA) if the tested flag is 1, PC + 1 if it is 0, and nothing
else changes. -/
def Obligations.ConditionalBranchResults : Prop :=
  ∀ (ba : BitVec 10) (s : State),
    (decode (branchWord 0x1800 ba) = .ok (.brz ba) ∧ decode (branchWord 0x1C00 ba) = .ok (.brn ba) ∧
      decode (branchWord 0x2000 ba) = .ok (.brc ba) ∧ decode (branchWord 0x2400 ba) = .ok (.bro ba)) ∧
    exec (.brz ba) s = .next (s.setPc (if s.flags.z then BitVec.ofNat 16 ba.toNat else s.pc + 1)) ∧
    exec (.brn ba) s = .next (s.setPc (if s.flags.n then BitVec.ofNat 16 ba.toNat else s.pc + 1)) ∧
    exec (.brc ba) s = .next (s.setPc (if s.flags.c then BitVec.ofNat 16 ba.toNat else s.pc + 1)) ∧
    exec (.bro ba) s = .next (s.setPc (if s.flags.v then BitVec.ofNat 16 ba.toNat else s.pc + 1))

/-- 43_branch.md R134: BRA sets PC to zext_16(BA) and changes nothing else; BRA a at address a leaves the
whole state unchanged. -/
def Obligations.BraResult : Prop :=
  ∀ (ba : BitVec 10) (s : State),
    decode (branchWord 0x2800 ba) = .ok (.bra ba) ∧
    exec (.bra ba) s = .next (s.setPc (BitVec.ofNat 16 ba.toNat)) ∧
    (s.pc.toNat = ba.toNat → exec (.bra ba) s = .next s)

/-- 30_encoding.md R70: JMP adr is the two words of PSH PC and BRA adr, RET the word of POP PC; two steps over
JMP's words, the first at PC, have JMP's whole effect, and RET has POP PC's. -/
def Obligations.PseudoInstructionsExpand : Prop :=
  (∀ ba : BitVec 10, encode (.jmp ba) = [0x1300, branchWord 0x2800 ba]) ∧ encode .ret = [0x1700] ∧
  (∀ s : State, exec .ret s = exec (.pop .pc) s) ∧
  (∀ (ba : BitVec 10) (s : State), s.ir = some 0x1300 →
    imRead (pcIndex (s.pc + 1)) s = some (branchWord 0x2800 ba) →
    ∃ m, step s = .next m ∧ m.pc = s.pc + 1 ∧ step m = exec (.jmp ba) s)

/-- 43_branch.md section 3 (JMP): the address A of JMP's first word is stored at SP[8:0], SP goes down by 1,
PC becomes zext_16(adr), nothing else changes. Rests on D4 for the address and D5 for SP's wrap (log entries 4,
5). -/
def Obligations.JmpResult : Prop :=
  ∀ (ba : BitVec 10) (s : State),
    ∃ t, exec (.jmp ba) s = .next t ∧
      dmRead (BitVec.ofNat 9 (s.sp.toNat % 512)) t = some s.pc ∧
      SameMemoriesBut (BitVec.ofNat 9 (s.sp.toNat % 512)) s t ∧ t.sp = s.sp - 1 ∧
      t.pc = BitVec.ofNat 16 ba.toNat ∧ SameData s t ∧ t.flags = s.flags ∧ SameUnit s t

/-- 43_branch.md section 3 (RET): PC becomes the word on top of the stack plus 2, SP goes up by 1, nothing
else changes; after a matching JMP at address A, with the stack as the JMP left it, PC becomes A + 2.
Rests on D4 for the address and D5, D6 for the wrap of SP and PC (log entries 4, 5, 6). -/
def Obligations.RetReturnsAfterJmp : Prop :=
  (∀ (s : State) (v : Word), dmRead (BitVec.ofNat 9 ((s.sp.toNat + 1) % 512)) s = some v →
    ∃ t, exec .ret s = .next t ∧ t.pc = v + 2 ∧ t.sp = s.sp + 1 ∧ SameData s t ∧ t.flags = s.flags ∧
      SameMemories s t ∧ SameUnit s t) ∧
  (∀ (ba : BitVec 10) (s t u : State), exec (.jmp ba) s = .next t → u.sp = t.sp →
    (∀ a : BitVec 9, a = BitVec.ofNat 9 (s.sp.toNat % 512) → dmRead a u = dmRead a t) →
    ∃ e, exec .ret u = .next e ∧ e.pc = s.pc + 2 ∧ e.sp = s.sp)

/-! ## Arithmetic -/

/-- 45_alu_arith.md R160: ADD. -/
def Obligations.AddResult : Prop :=
  ∀ (ra : Reg) (imm : BitVec 9) (s : State) (a b res : Word),
    a = leftOperand ra imm s → b = rightOperand ra imm s →
    res = BitVec.ofNat 16 ((a.toNat + b.toNat) % 65536) →
    decode (immWord 0x3400 ra imm) = .ok (.add ra imm) ∧
    ∃ t, exec (.add ra imm) s = .next t ∧ TwoFormWrite ra imm res s t ∧
      AluFrame (decide (res = 0)) (res.getLsbD 15) (decide (a.toNat + b.toNat > 65535))
        (decide (a.getLsbD 15 = b.getLsbD 15 ∧ res.getLsbD 15 ≠ a.getLsbD 15)) s t

/-- 44_alu_common.md section 2: CARRY and OVERFLOW of ADD and INC: C is the exact unsigned sum above 65535, V
the sign rule, which is the exact signed sum outside -32768..32767. For INC this is the spec's decision D22 (log
entry 22); the signed reading is log entry 31. -/
def Obligations.AdditionCarryAndOverflow : Prop :=
  ∀ (ra : Reg) (s t : State) (a b res : Word),
    ((∃ imm, exec (.add ra imm) s = .next t ∧ a = leftOperand ra imm s ∧ b = rightOperand ra imm s) ∨
      (exec (.inc ra) s = .next t ∧ a = readReg ra s ∧ b = 1)) →
    res = BitVec.ofNat 16 ((a.toNat + b.toNat) % 65536) →
    (t.flags.c = true ↔ a.toNat + b.toNat > 65535) ∧
    (t.flags.v = true ↔ a.getLsbD 15 = b.getLsbD 15 ∧ res.getLsbD 15 ≠ a.getLsbD 15) ∧
    (t.flags.v = true ↔ a.toInt + b.toInt < -32768 ∨ a.toInt + b.toInt > 32767)

/-- 45_alu_arith.md (SUB) and 44_alu_common.md section 2: SUB; C is a borrow, V the exact signed difference
outside the range. C and V rest on the spec's decision D13 (log entry 13), the signed reading on log entry 31. -/
def Obligations.SubResult : Prop :=
  ∀ (ra : Reg) (imm : BitVec 9) (s : State) (a b res : Word),
    a = leftOperand ra imm s → b = rightOperand ra imm s →
    res = BitVec.ofInt 16 (a.toNat - b.toNat) →
    decode (immWord 0x3800 ra imm) = .ok (.sub ra imm) ∧
    ∃ t, exec (.sub ra imm) s = .next t ∧ TwoFormWrite ra imm res s t ∧
      AluFrame (decide (res = 0)) (res.getLsbD 15) (decide (a.toNat < b.toNat))
        (decide (a.toInt - b.toInt < -32768 ∨ a.toInt - b.toInt > 32767)) s t

/-- 45_alu_arith.md (MUL) and 44_alu_common.md section 2: MUL, the low 16 bits of the product. C and V rest on
the spec's decision D13 (log entry 13), the signed reading on log entry 31. -/
def Obligations.MulResult : Prop :=
  ∀ (ra : Reg) (imm : BitVec 9) (s : State) (a b res : Word),
    a = leftOperand ra imm s → b = rightOperand ra imm s →
    res = BitVec.ofNat 16 (a.toNat * b.toNat % 65536) →
    decode (immWord 0x4400 ra imm) = .ok (.mul ra imm) ∧
    ∃ t, exec (.mul ra imm) s = .next t ∧ TwoFormWrite ra imm res s t ∧
      AluFrame (decide (res = 0)) (res.getLsbD 15) (decide (a.toNat * b.toNat > 65535))
        (decide (a.toInt * b.toInt < -32768 ∨ a.toInt * b.toInt > 32767)) s t

/-- 45_alu_arith.md (DIV, MOD) and 44_alu_common.md section 3: unsigned quotient and remainder, C and V written
0; a right operand of 0 is fault DivideByZero, whatever the accumulator. The spec's decisions D9, D10, D13 (log
entries 9, 10, 13): D13(d) counts MOD as a division, D13(e) reads "remains 0" as "is written 0" (90_conflicts.md
C11). -/
def Obligations.DivModResults : Prop :=
  ∀ (ra : Reg) (imm : BitVec 9) (s : State) (a b q r : Word),
    a = leftOperand ra imm s → b = rightOperand ra imm s →
    q = BitVec.ofNat 16 (a.toNat / b.toNat) → r = BitVec.ofNat 16 (a.toNat % b.toNat) →
    (decode (immWord 0x4800 ra imm) = .ok (.div ra imm) ∧
      decode (immWord 0x4C00 ra imm) = .ok (.mod ra imm)) ∧
    (b ≠ 0 →
      (∃ t, exec (.div ra imm) s = .next t ∧ TwoFormWrite ra imm q s t ∧
        AluFrame (decide (q = 0)) (q.getLsbD 15) false false s t) ∧
      (∃ t, exec (.mod ra imm) s = .next t ∧ TwoFormWrite ra imm r s t ∧
        AluFrame (decide (r = 0)) (r.getLsbD 15) false false s t)) ∧
    (b = 0 → exec (.div ra imm) s = .fault .divideByZero ∧ exec (.mod ra imm) s = .fault .divideByZero)

/-- 44_alu_common.md section 3: where both operands have bit 15 clear the signed and the unsigned reading of
division agree, so there nothing rests on D9 (log entry 9). -/
def Obligations.DivisionReadingsAgree : Prop :=
  ∀ a b : Word, a.getLsbD 15 = false → b.getLsbD 15 = false → b ≠ 0 →
    quotient true a b = quotient false a b ∧ remainder true a b = remainder false a b

/-- 45_alu_arith.md (CMP): no register changes; the flags are those of the difference: after CMP, Z iff a = b,
C iff a is below b unsigned, N ≠ V iff a is below b signed. The spec's decisions D13, D14 (log entries 13, 14);
the signed reading is log entry 31. -/
def Obligations.CmpResult : Prop :=
  ∀ (ra : Reg) (imm : BitVec 9) (s : State) (a b : Word),
    a = leftOperand ra imm s → b = rightOperand ra imm s →
    decode (immWord 0x5000 ra imm) = .ok (.cmp ra imm) ∧
    ∃ t, exec (.cmp ra imm) s = .next t ∧ SameData s t ∧ t.pc = s.pc + 1 ∧ t.sp = s.sp ∧
      SameMemories s t ∧ SameUnit s t ∧
      (t.flags.z = true ↔ a = b) ∧ (t.flags.c = true ↔ a.toNat < b.toNat) ∧
      (t.flags.n ≠ t.flags.v ↔ a.toInt < b.toInt) ∧
      (t.flags.v = true ↔ a.toInt - b.toInt < -32768 ∨ a.toInt - b.toInt > 32767)

/-- 95_test_vectors.md section 6, law 6: CMP leaves the state SUB leaves but for ACC, X and Y, which keep
their values. Rests on D14 (log entry 14). -/
def Obligations.CmpIsSubWithoutResult : Prop :=
  ∀ (ra : Reg) (imm : BitVec 9) (s t : State), exec (.sub ra imm) s = .next t →
    exec (.cmp ra imm) s = .next { t with acc := s.acc, x := s.x, y := s.y }

/-- 45_alu_arith.md (INC, DEC): R(RA) plus or minus 1 modulo 2^16, ACC untouched although IMM = 0; C and V as of
an addition or subtraction of 1. C and V rest on the spec's decision D22 (log entry 22),
DEC's as a borrow and a signed difference on D13(a) too (log entry 13). -/
def Obligations.IncDecResults : Prop :=
  ∀ (ra : Reg) (s : State) (a up down : Word), a = readReg ra s →
    up = BitVec.ofNat 16 ((a.toNat + 1) % 65536) → down = BitVec.ofNat 16 ((a.toNat + 65535) % 65536) →
    (decode (regWord 0x5400 ra) = .ok (.inc ra) ∧ decode (regWord 0x5800 ra) = .ok (.dec ra)) ∧
    (∃ t, exec (.inc ra) s = .next t ∧ OnlyReg ra up s t ∧
      AluFrame (decide (up = 0)) (up.getLsbD 15) (decide (a = 0xFFFF)) (decide (a = 0x7FFF)) s t) ∧
    (∃ t, exec (.dec ra) s = .next t ∧ OnlyReg ra down s t ∧
      AluFrame (decide (down = 0)) (down.getLsbD 15) (decide (a = 0)) (decide (a = 0x8000)) s t)

/-! ## Logic, shifts, rotates -/

/-- 46_alu_logic_shift.md (AND, OR, XOR), bit by bit; C = V = 0 is the spec's decision D13 (log entry 13). -/
def Obligations.LogicResults : Prop :=
  ∀ (ra : Reg) (imm : BitVec 9) (s : State) (a b : Word),
    a = leftOperand ra imm s → b = rightOperand ra imm s →
    (decode (immWord 0x5C00 ra imm) = .ok (.and ra imm) ∧ decode (immWord 0x6000 ra imm) = .ok (.or ra imm) ∧
      decode (immWord 0x6400 ra imm) = .ok (.xor ra imm)) ∧
    (∃ t res, exec (.and ra imm) s = .next t ∧ TwoFormWrite ra imm res s t ∧
      (∀ k, res.getLsbD k = (a.getLsbD k && b.getLsbD k)) ∧
      AluFrame (decide (res = 0)) (res.getLsbD 15) false false s t) ∧
    (∃ t res, exec (.or ra imm) s = .next t ∧ TwoFormWrite ra imm res s t ∧
      (∀ k, res.getLsbD k = (a.getLsbD k || b.getLsbD k)) ∧
      AluFrame (decide (res = 0)) (res.getLsbD 15) false false s t) ∧
    (∃ t res, exec (.xor ra imm) s = .next t ∧ TwoFormWrite ra imm res s t ∧
      (∀ k, res.getLsbD k = (a.getLsbD k != b.getLsbD k)) ∧
      AluFrame (decide (res = 0)) (res.getLsbD 15) false false s t)

/-- 46_alu_logic_shift.md (NOT): all 16 bits of R(RA) inverted; C = V = 0 is the spec's decision D13 (log
entry 13). -/
def Obligations.NotResult : Prop :=
  ∀ (ra : Reg) (s : State),
    decode (regWord 0x6800 ra) = .ok (.not ra) ∧
    ∃ t res, exec (.not ra) s = .next t ∧ OnlyReg ra res s t ∧
      (∀ k, k < 16 → res.getLsbD k = !(readReg ra s).getLsbD k) ∧
      AluFrame (decide (res = 0)) (res.getLsbD 15) false false s t

/-- 95_test_vectors.md section 6, law 9: NOT r and XOR r #-1 leave the same state. That C and V agree too, both
being written 0 by either, is the spec's decision D13(c) (log entry 13). -/
def Obligations.NotIsXorMinusOne : Prop :=
  ∀ (ra : Reg) (s : State), exec (.not ra) s = exec (.xor ra 0x1FF) s

/-- 46_alu_logic_shift.md (LSR, LSL) and 44_alu_common.md section 3: exact quotient and product by 2^n, n the
whole right operand unsigned, 0 for n of 16 or more; C = V = 0. Counts of 16 or more and zero fill are the spec's
decision D11 (log entry 11). The source says of shifts that C and V "remain 0", and reading that as "are written 0",
whatever they were before, is the spec's decision D13(e) (90_conflicts.md C11, log entry 13). -/
def Obligations.ShiftResults : Prop :=
  ∀ (ra : Reg) (imm : BitVec 9) (s : State) (a b right left : Word),
    a = leftOperand ra imm s → b = rightOperand ra imm s →
    right = BitVec.ofNat 16 (a.toNat / 2 ^ b.toNat) → left = BitVec.ofNat 16 (a.toNat * 2 ^ b.toNat % 65536) →
    (decode (immWord 0x3C00 ra imm) = .ok (.lsr ra imm) ∧
      decode (immWord 0x4000 ra imm) = .ok (.lsl ra imm)) ∧
    (b.toNat ≥ 16 → right = 0 ∧ left = 0) ∧
    (∃ t, exec (.lsr ra imm) s = .next t ∧ TwoFormWrite ra imm right s t ∧
      AluFrame (decide (right = 0)) (right.getLsbD 15) false false s t) ∧
    (∃ t, exec (.lsl ra imm) s = .next t ∧ TwoFormWrite ra imm left s t ∧
      AluFrame (decide (left = 0)) (left.getLsbD 15) false false s t)

/-- 46_alu_logic_shift.md (RSR, RSL) and 44_alu_common.md section 3: bit k of the result is bit k + n (RSR) or
k - n (RSL) of the operand, modulo 16, n = u(b) mod 16. The count's reading is the spec's decision D12, C = V = 0
its decision D13 (log entries 12, 13). -/
def Obligations.RotateResults : Prop :=
  ∀ (ra : Reg) (imm : BitVec 9) (s : State) (a b : Word),
    a = leftOperand ra imm s → b = rightOperand ra imm s →
    (decode (immWord 0x6C00 ra imm) = .ok (.rsr ra imm) ∧
      decode (immWord 0x7000 ra imm) = .ok (.rsl ra imm)) ∧
    (∃ t res, exec (.rsr ra imm) s = .next t ∧ TwoFormWrite ra imm res s t ∧
      (∀ k, k < 16 → res.getLsbD k = a.getLsbD ((k + b.toNat % 16) % 16)) ∧
      AluFrame (decide (res = 0)) (res.getLsbD 15) false false s t) ∧
    (∃ t res, exec (.rsl ra imm) s = .next t ∧ TwoFormWrite ra imm res s t ∧
      (∀ k, k < 16 → res.getLsbD ((k + b.toNat % 16) % 16) = a.getLsbD k) ∧
      AluFrame (decide (res = 0)) (res.getLsbD 15) false false s t)

/-- 95_test_vectors.md section 6, law 8: RSR r #n then RSL r #n restores R, for every immediate. Rests on D12
(log entry 12). -/
def Obligations.RotateLeftUndoesRotateRight : Prop :=
  ∀ (ra : Reg) (imm : BitVec 9) (s t : State), imm ≠ 0 → exec (.rsr ra imm) s = .next t →
    ∃ u, exec (.rsl ra imm) t = .next u ∧ readReg ra u = readReg ra s ∧
      readReg (otherReg ra) u = readReg (otherReg ra) s ∧ u.acc = s.acc

/-! ## Factorial, move, no-operation -/

/-- 47_factorial.md: FCT r #n writes n! mod 2^16 into R(RA) and Z, N of it; C and V may be anything and nothing
is said of them; FACT is 0 and FACT_REG 1 again; IMM = 0 is fault FactorialOfZero, the spec's decision D15 (log
entry 15). The premise FACT_REG = 1 is part of the invariant StepKeepsInvariant keeps. -/
def Obligations.FctResult : Prop :=
  ∀ (ra : Reg) (imm : BitVec 9) (s : State) (res : Word), s.fact.reg = 1 →
    res = BitVec.ofNat 16 (imm.toNat.factorial % 65536) →
    decode (immWord 0x7400 ra imm) = .ok (.fct ra imm) ∧
    (imm ≠ 0 → ∃ t, exec (.fct ra imm) s = .next t ∧ OnlyReg ra res s t ∧
      t.flags.z = decide (res = 0) ∧ t.flags.n = res.getLsbD 15 ∧ t.pc = s.pc + 1 ∧ t.sp = s.sp ∧
      SameMemories s t ∧ t.fact.running = false ∧ t.fact.reg = 1) ∧
    (imm = 0 → exec (.fct ra imm) s = .fault .factorialOfZero)

/-- 47_factorial.md, the table of results (the spec's derivation): what FCT writes for n = 1 to 17, and 0 with
Z = 1 for every n from 18 to 511. -/
def Obligations.FctTable : Prop :=
  ∀ (ra : Reg) (s : State), s.fact.reg = 1 →
    (∀ p ∈ [((1 : BitVec 9), (0x0001 : Word)), (2, 0x0002), (3, 0x0006), (4, 0x0018), (5, 0x0078), (6, 0x02D0),
        (7, 0x13B0), (8, 0x9D80), (9, 0x8980), (10, 0x5F00), (11, 0x1500), (12, 0xFC00), (13, 0xCC00),
        (14, 0x2800), (15, 0x5800), (16, 0x8000), (17, 0x8000)],
      ∃ t, exec (.fct ra p.1) s = .next t ∧ readReg ra t = p.2) ∧
    (∀ imm : BitVec 9, 18 ≤ imm.toNat →
      ∃ t, exec (.fct ra imm) s = .next t ∧ readReg ra t = 0 ∧ t.flags.z = true)

/-- 47_factorial.md (how the hardware computes it): from FACT_REG = 1 and the timer loaded with n, the timer falls
by one a cycle and FACT_REG collects n, n(n-1), ...; FACT_END is raised at k = n - 1. The alignment of the cycles
(the timer loaded at k = 0, FACT_END at k = n - 1, the product by 1 taken then) is the model's choice (log entries
27, 33): the spec says the load cycle, FACT_END's place and the count cannot be told, and k counts no time (log
entry 25). -/
def Obligations.FactorialUnitCycles : Prop :=
  ∀ (n : BitVec 9) (u : FactUnit) (k : Nat), u.reg = 1 → k < n.toNat →
    (factCycle^[k] (factLoad n u)).cnt.toNat = n.toNat - k ∧
    (factCycle^[k] (factLoad n u)).reg = BitVec.ofNat 16 (n.toNat.descFactorial k) ∧
    (factCycle^[k] (factLoad n u)).running = true ∧
    (factEnd (factCycle^[k] (factLoad n u)) = true ↔ k = n.toNat - 1)

/-- 48_mov_nop.md R210: MOV puts the sign-extended IMM into R(RA), -256..255, and writes no flag. -/
def Obligations.MovResult : Prop :=
  ∀ (ra : Reg) (imm : BitVec 9) (s : State),
    decode (immWord 0x7800 ra imm) = .ok (.mov ra imm) ∧
    ∃ t v, exec (.mov ra imm) s = .next t ∧ OnlyReg ra v s t ∧ v.toInt = imm.toInt ∧ PlainFrame s t

/-- 48_mov_nop.md R211: NOP only advances PC; 0xFC00 is its only word. -/
def Obligations.NopResult : Prop :=
  (∀ w, decode w = .ok .nop ↔ w = 0xFC00) ∧ ∀ s : State, exec .nop s = .next (s.setPc (s.pc + 1))

/-! ## Rules of the whole machine -/

/-- 10_state.md R21: only the 17 instructions of Tabela 5 write FLAGS, each of them writes all four bits
whatever they were, and only BRZ, BRN, BRC, BRO read them, each its own flag. -/
def Obligations.FlagsWrittenAndReadAsListed : Prop :=
  (∀ (i : Instr) (s t : State), exec i s = .next t → isAlu i = false → t.flags = s.flags) ∧
  (∀ (i : Instr) (s t u : State) (f g : Flags), isAlu i = true → exec i (s.setFlags f) = .next t →
    exec i (s.setFlags g) = .next u → t.flags = u.flags) ∧
  (∀ (i : Instr) (s : State) (f g : Flags) (h : Flags), testedFlag f i = testedFlag g i →
    Result.map (State.setFlags h) (exec i (s.setFlags f)) = Result.map (State.setFlags h) (exec i (s.setFlags g)))

/-- 10_state.md, section on how PC advances: a branch taken loads zext_16(BA), POP PC (RET) the popped word
plus 2, every other instruction PC + 1, modulo 2^16. Modulo 2^16 is the spec's decision D6, the popped word's
address D4 (log entries 6, 4). JMP, two machine instructions, is left to JmpResult. -/
def Obligations.PcAdvancesAsListed : Prop :=
  ∀ (i : Instr) (s t : State), exec i s = .next t → (∀ ba, i ≠ .jmp ba) →
    match i with
    | .bra ba => t.pc = BitVec.ofNat 16 ba.toNat
    | .brz ba => t.pc = if s.flags.z then BitVec.ofNat 16 ba.toNat else s.pc + 1
    | .brn ba => t.pc = if s.flags.n then BitVec.ofNat 16 ba.toNat else s.pc + 1
    | .brc ba => t.pc = if s.flags.c then BitVec.ofNat 16 ba.toNat else s.pc + 1
    | .bro ba => t.pc = if s.flags.v then BitVec.ofNat 16 ba.toNat else s.pc + 1
    | .pop .pc => ∃ v, dmRead (popAddr Config.stackOrder s.sp) s = some v ∧ t.pc = v + 2
    | .ret => ∃ v, dmRead (popAddr Config.stackOrder s.sp) s = some v ∧ t.pc = v + 2
    | _ => t.pc = BitVec.ofNat 16 ((s.pc.toNat + 1) % 65536)

/-- 10_state.md section 3: SP is 0x01FF after reset; PSH and POP (JMP and RET by their words) are the only
instructions that change it, each by exactly 1 (modulo 2^16 is the spec's decision D5, log entry 5), and the only
ones that use it: every other instruction does the same whatever SP holds; only its low 9 bits are used: two
states that differ only in the upper bits of SP stay so through any instruction; and no instruction reads SP into
a register: but for the address POP loads from, no value of SP has any bearing on ACC, X, Y or PC. -/
def Obligations.StackPointerRules : Prop :=
  State.reset.sp = 0x01FF ∧
  (∀ (i : Instr) (s t : State), exec i s = .next t →
    t.sp = match i with
      | .psh _ => s.sp - 1
      | .jmp _ => s.sp - 1
      | .pop _ => s.sp + 1
      | .ret => s.sp + 1
      | _ => s.sp) ∧
  (∀ (i : Instr) (s : State) (p q r : Word), p.toNat % 512 = q.toNat % 512 →
    Result.map (State.setSp r) (exec i (s.setSp p)) = Result.map (State.setSp r) (exec i (s.setSp q))) ∧
  (∀ (i : Instr) (s : State) (p q r : Word), (∀ ss, i ≠ .psh ss) → (∀ ss, i ≠ .pop ss) → (∀ ba, i ≠ .jmp ba) →
    i ≠ .ret →
    Result.map (State.setSp r) (exec i (s.setSp p)) = Result.map (State.setSp r) (exec i (s.setSp q))) ∧
  (∀ (i : Instr) (s t u : State) (p q : Word), (∀ ss, i ≠ .pop ss) → i ≠ .ret →
    exec i (s.setSp p) = .next t → exec i (s.setSp q) = .next u →
    t.acc = u.acc ∧ t.x = u.x ∧ t.y = u.y ∧ t.pc = u.pc)

/-- 10_state.md R12, the complete list of who reads and writes ACC, X and Y: an instruction the table does not
name as writing a register leaves it as it was; the value of a register the table does not name as read by an
instruction has no bearing on whether it completes or on anything it leaves but that register. -/
def Obligations.RegistersReadAndWrittenAsListed : Prop :=
  (∀ (i : Instr) (s t : State), exec i s = .next t →
    (writesAcc i = false → t.acc = s.acc) ∧ (writesReg .x i = false → t.x = s.x) ∧
    (writesReg .y i = false → t.y = s.y)) ∧
  (∀ (i : Instr) (s : State) (v w : Word),
    (readsAcc i = false →
      Result.map (State.setAcc w) (exec i (s.setAcc v)) = Result.map (State.setAcc w) (exec i s)) ∧
    (readsReg .x i = false →
      Result.map (State.setX w) (exec i (s.setX v)) = Result.map (State.setX w) (exec i s)) ∧
    (readsReg .y i = false →
      Result.map (State.setY w) (exec i (s.setY v)) = Result.map (State.setY w) (exec i s)))

/-- 20_memory.md (no side effects; latest store), 10_state.md (DM written by STR and PSH only): after any
instruction a data memory word is what the instruction stored there, or what it was; after reset it is
DM_INIT. The address a PSH stores to rests on D4, the ordering on D18 (log entries 4, 19). -/
def Obligations.DataMemoryHoldsTheLastStore : Prop :=
  (∀ a : BitVec 9, dmRead a State.reset = dmInit a.toNat) ∧
  (∀ (i : Instr) (s t : State), exec i s = .next t → ∀ a : BitVec 9,
    dmRead a t = match storeOf i s with
      | some (b, v) => if a = b then some v else dmRead a s
      | none => dmRead a s)

/-- 20_memory.md R52: the instruction memory cannot be written by the program, so no store is ever seen by a
later fetch. -/
def Obligations.InstructionMemoryIsReadOnly : Prop :=
  (∀ (i : Instr) (s t : State), exec i s = .next t → ∀ a : BitVec 10, imRead a t = imRead a s) ∧
  (∀ (k : Nat) (s t : State), Host.Core.run core k s = .next t → ∀ a : BitVec 10, imRead a t = imRead a s)

/-- 60_exceptions.md, orders 4 and 5 of the list of faults: exec stops exactly on a load of a word that holds
no value, a division or remainder by 0 and a factorial of 0; it never refuses. The spec's decisions D3, D10,
D15 (log entries 2, 10, 15). -/
def Obligations.ExecStopsExactly : Prop :=
  ∀ (i : Instr) (s : State),
    (exec i s = .fault .uninitialisedRead ↔ ∃ a, loadAddress i s = some a ∧ dmRead a s = none) ∧
    (exec i s = .fault .divideByZero ↔
      ∃ ra imm, (i = .div ra imm ∨ i = .mod ra imm) ∧ rightOperand ra imm s = 0) ∧
    (exec i s = .fault .factorialOfZero ↔ ∃ ra, i = .fct ra 0) ∧
    ((∃ t, exec i s = .next t) ∨ exec i s = .fault .uninitialisedRead ∨ exec i s = .fault .divideByZero ∨
      exec i s = .fault .factorialOfZero)

/-- 30_encoding.md section 8: at most one of the signals ALU, MOV, L, TR that choose a register's input is 1 for any
instruction. The multiplexer takes the input of the one that is 1; the PC's multiplexer takes the popped
word's path for STACK_POP and the branch address for BRA, never both. Which signals an instruction raises is the
spec's derivation, DEDUCED in the model (log entry 30): a claim about the signals themselves rests on it. -/
def Obligations.AtMostOneInputSignal : Prop :=
  ∀ (i : Instr) (fe : Bool) (f : Flags) (alu mov dm acc : Word),
    let c := control i fe f
    ([c.alu, c.mov, c.load, c.tr].count true ≤ 1) ∧ ([c.stackPop, c.bra].count true ≤ 1) ∧
    (c.alu = true → registerInput c alu mov dm acc = alu) ∧
    (c.mov = true → registerInput c alu mov dm acc = mov) ∧
    (c.load = true → registerInput c alu mov dm acc = dm) ∧
    (c.tr = true → registerInput c alu mov dm acc = acc)

/-- 30_encoding.md section 8, 20_memory.md section 2, 43_branch.md section 1: what each machine instruction
leaves is what its control signals select through the multiplexers: the registers, the data memory word
written, the flags' write enable, PC. The signals are the spec's derivation; the stack address rests on D4 (log
entries 4, 30). -/
def Obligations.ControlSignalsSelectTheWrites : Prop :=
  ∀ (i : Instr) (w : Word) (s t : State), decode w = .ok i → exec i s = .next t →
    let c := control i true s.flags
    let addr := dmAddress c (immField w) s
    ∃ alu out : Word, (c.load = true → dmRead addr s = some out) ∧
      t.acc = (if c.accSelect && !c.store then registerInput c alu (sextImm (immField w)) out s.acc else s.acc) ∧
      t.x = (if c.xSelect && !c.store then registerInput c alu (sextImm (immField w)) out s.acc else s.x) ∧
      t.y = (if c.ySelect && !c.store then registerInput c alu (sextImm (immField w)) out s.acc else s.y) ∧
      t.pc = (if branchTaken c s.flags then zextBa (baField w)
        else if c.pcSelect && c.stackPop then out + 2 else s.pc + 1) ∧
      (c.store = true → dmRead addr t = some (dmData c s)) ∧
      (c.flagSelect = false → t.flags = s.flags)

/-! ## The invariant and runs -/

/-- The invariant holds at reset (10_state.md section 8). -/
def Obligations.ResetMeetsInvariant : Prop := State.reset.Inv

/-- Every step keeps the invariant: both memories stay in canonical form inside their 512 and 1024 locations, and
at every instruction boundary no factorial runs and FACT_REG is 1 (10_state.md sections 6, 7). -/
def Obligations.StepKeepsInvariant : Prop := ∀ s t : State, s.Inv → step s = .next t → t.Inv

/-- 70_reset_and_hazards.md section 6: at a branch to itself executing changes nothing, for any number of steps,
so stopping there loses nothing. The convention is the spec's decision D16 (log entry 17). -/
def Obligations.EndOfRunIsAFixedPoint : Prop :=
  ∀ s : State, atEnd s = true → ∀ k, Host.Core.run core k s = .next s

/-- 70_reset_and_hazards.md section 6: a run completes in one state at most, and a run that stops with a fault
completes in none, nor stops with another fault (60_exceptions.md section 1). Rests on D16 (log entry 17). -/
def Obligations.RunHasOneEnd : Prop :=
  (∀ s t u : State, Completes s t → Completes s u → t = u) ∧
  (∀ (s t : State) (f : Fault), FaultsWith s f → ¬ Completes s t) ∧
  (∀ (s : State) (f g : Fault), FaultsWith s f → FaultsWith s g → f = g)
end

