-- ==== Sys2Proof/Laws/Decode.lean ====
section
/-! SUPPORT. The fields of the words the formats build, and those words under the masks of the opcode map. -/

namespace Sys2Proof

/-! ## Bits -/

/-- Below bit 10 the opcode contributes nothing. -/
theorem opcodeBits_low {k : Nat} (op : BitVec 6) (h : k < 10) : (opcodeBits op).getLsbD k = false := by
  simp [opcodeBits, h]

/-- The same of the indexed bit. -/
theorem opcodeBits_getElem_low {k : Nat} (op : BitVec 6) (h : k < 10) :
    (opcodeBits op)[k]'(by omega) = false := by
  simp [opcodeBits, h]

/-- Bit 10 + k of a word with this opcode is the opcode's bit k. -/
theorem opcodeBits_high {k : Nat} (op : BitVec 6) (h : k < 6) : (opcodeBits op).getLsbD (10 + k) = op.getLsbD k := by
  have : 10 + k < 16 := by omega
  simp [opcodeBits, this, show 10 + k - 10 = k by omega]

theorem stackRegOf_bits (ss : StackReg) : stackRegOf ss.bits = ss := by
  cases ss <;> rfl

/-! ## The opcode field of each format's word -/

theorem opcodeField_or {op : BitVec 6} {r : Word} (h : ∀ k, k < 6 → r.getLsbD (10 + k) = false) :
    opcodeField (opcodeBits op ||| r) = op := by
  apply BitVec.eq_of_getLsbD_eq
  intro k hk
  simp [opcodeField, hk, h k hk, opcodeBits_high]

@[simp] theorem opcodeField_encodeF0 (op : BitVec 6) : opcodeField (encodeF0 op) = op := by
  have := opcodeField_or (op := op) (r := 0) (by simp)
  simpa [encodeF0] using this

@[simp] theorem opcodeField_encodeFB (op : BitVec 6) (ba : BitVec 10) : opcodeField (encodeFB op ba) = op :=
  opcodeField_or fun k _ => by simp

@[simp] theorem opcodeField_encodeFU (op : BitVec 6) (ra : Reg) : opcodeField (encodeFU op ra) = op := by
  cases ra <;> refine opcodeField_or fun k hk => ?_ <;> interval_cases k <;> rfl

@[simp] theorem opcodeField_encodeFS (op : BitVec 6) (ss : StackReg) : opcodeField (encodeFS op ss) = op := by
  cases ss <;> refine opcodeField_or fun k hk => ?_ <;> interval_cases k <;> rfl

@[simp] theorem opcodeField_encodeFM (op : BitVec 6) (ra : Reg) (imm : BitVec 9) :
    opcodeField (encodeFM op ra imm) = op := by
  rw [encodeFM, BitVec.or_assoc]
  refine opcodeField_or fun k hk => ?_
  have h : (imm.setWidth 16).getLsbD (10 + k) = false := by
    rw [BitVec.getLsbD_setWidth, BitVec.getLsbD_of_ge _ _ (by omega), Bool.and_false]
  rw [BitVec.getLsbD_or, h, Bool.or_false]
  cases ra <;> interval_cases k <;> rfl

/-! ## The operand fields of each format's word -/

@[simp] theorem baField_encodeF0 (op : BitVec 6) : baField (encodeF0 op) = 0 := by
  apply BitVec.eq_of_getLsbD_eq
  intro k hk
  simp [baField, encodeF0, hk, opcodeBits_low op hk]

@[simp] theorem baField_encodeFB (op : BitVec 6) (ba : BitVec 10) : baField (encodeFB op ba) = ba := by
  apply BitVec.eq_of_getLsbD_eq
  intro k hk
  simp [baField, encodeFB, hk, opcodeBits_getElem_low op hk, show k < 16 by omega]

@[simp] theorem raField_encodeFM (op : BitVec 6) (ra : Reg) (imm : BitVec 9) :
    raField (encodeFM op ra imm) = ra := by
  have h := opcodeBits_getElem_low op (show 9 < 10 by omega)
  cases ra <;> simp [raField, encodeFM, Reg.bit, h]

@[simp] theorem raField_encodeFU (op : BitVec 6) (ra : Reg) : raField (encodeFU op ra) = ra := by
  have h := opcodeBits_getElem_low op (show 9 < 10 by omega)
  cases ra <;> simp [raField, encodeFU, Reg.bit, h]

@[simp] theorem immField_encodeFM (op : BitVec 6) (ra : Reg) (imm : BitVec 9) :
    immField (encodeFM op ra imm) = imm := by
  apply BitVec.eq_of_getLsbD_eq
  intro k hk
  simp [immField, encodeFM, hk, opcodeBits_getElem_low op (show k < 10 by omega), show k < 16 by omega]

@[simp] theorem immField_encodeFU (op : BitVec 6) (ra : Reg) : immField (encodeFU op ra) = 0 := by
  apply BitVec.eq_of_getLsbD_eq
  intro k hk
  simp [immField, encodeFU, hk, opcodeBits_low op (show k < 10 by omega)]

@[simp] theorem lowByte_encodeFS (op : BitVec 6) (ss : StackReg) : lowByte (encodeFS op ss) = 0 := by
  apply BitVec.eq_of_getLsbD_eq
  intro k hk
  simp [lowByte, encodeFS, hk, opcodeBits_low op (show k < 10 by omega)]

@[simp] theorem raStackField_encodeFS (op : BitVec 6) (ss : StackReg) : raStackField (encodeFS op ss) = ss := by
  have h : raStackBits (encodeFS op ss) = ss.bits := by
    apply BitVec.eq_of_getLsbD_eq
    intro k hk
    simp [raStackBits, encodeFS, hk, opcodeBits_getElem_low op (show 8 + k < 10 by omega),
      show 8 + k < 16 by omega]
  rw [raStackField, h, stackRegOf_bits]

/-! ## The formats' words under the masks of the opcode map (30_encoding.md R66) -/

/-- A word whose bits under the mask are the opcode's alone is masked to them. -/
theorem opcodeBits_masked {op : BitVec 6} {r mask : Word} (hm : ∀ k, k < 6 → mask.getLsbD (10 + k) = true)
    (hr : ∀ k, k < 16 → (r &&& mask).getLsbD k = false) : (opcodeBits op ||| r) &&& mask = opcodeBits op := by
  have h0 : r &&& mask = 0 := by
    apply BitVec.eq_of_getLsbD_eq
    intro k hk
    simpa using hr k hk
  have h1 : opcodeBits op &&& mask = opcodeBits op := by
    apply BitVec.eq_of_getLsbD_eq
    intro k hk
    by_cases h : k < 10
    · simp [opcodeBits_low op h]
    · have := hm (k - 10) (by omega)
      rw [show 10 + (k - 10) = k by omega] at this
      simp [this]
  have h2 : (opcodeBits op ||| r) &&& mask = (opcodeBits op &&& mask) ||| (r &&& mask) := by
    apply BitVec.eq_of_getLsbD_eq
    intro k _
    simp [Bool.and_or_distrib_right]
  rw [h2, h0, h1]
  simp

theorem encodeFM_masked (op : BitVec 6) (ra : Reg) (imm : BitVec 9) :
    encodeFM op ra imm &&& 0xFC00 = opcodeBits op := by
  rw [encodeFM, BitVec.or_assoc]
  refine opcodeBits_masked (fun k hk => by interval_cases k <;> rfl) fun k hk => ?_
  by_cases h : k < 9
  · interval_cases k <;> simp
  · cases ra <;> interval_cases k <;> simp_all [Reg.bit]

theorem encodeFB_masked (op : BitVec 6) (ba : BitVec 10) : encodeFB op ba &&& 0xFC00 = opcodeBits op := by
  refine opcodeBits_masked (fun k hk => by interval_cases k <;> rfl) fun k hk => ?_
  interval_cases k <;> simp

theorem encodeFU_masked (op : BitVec 6) (ra : Reg) : encodeFU op ra &&& 0xFDFF = opcodeBits op := by
  refine opcodeBits_masked (fun k hk => by interval_cases k <;> rfl) fun k hk => ?_
  cases ra <;> interval_cases k <;> rfl

theorem encodeFS_masked (op : BitVec 6) (ss : StackReg) : encodeFS op ss &&& 0xFCFF = opcodeBits op := by
  refine opcodeBits_masked (fun k hk => by interval_cases k <;> rfl) fun k hk => ?_
  cases ss <;> interval_cases k <;> rfl

theorem encodeF0_masked (op : BitVec 6) : encodeF0 op &&& 0xFFFF = opcodeBits op := by
  show encodeF0 op &&& BitVec.allOnes 16 = _
  rw [BitVec.and_allOnes]
  rfl

end Sys2Proof
end

