-- ==== Sys2Proof/Laws/State.lean ====
section
/-! SUPPORT. One lemma for each field under each setter, so that no proof unfolds a record update. -/

namespace Sys2Proof.Machine

/-! ## setAcc -/

@[simp] theorem State.setAcc_acc (v : Word) (s : State) : (s.setAcc v).acc = v := rfl
@[simp] theorem State.setAcc_x (v : Word) (s : State) : (s.setAcc v).x = s.x := rfl
@[simp] theorem State.setAcc_y (v : Word) (s : State) : (s.setAcc v).y = s.y := rfl
@[simp] theorem State.setAcc_pc (v : Word) (s : State) : (s.setAcc v).pc = s.pc := rfl
@[simp] theorem State.setAcc_sp (v : Word) (s : State) : (s.setAcc v).sp = s.sp := rfl
@[simp] theorem State.setAcc_flags (v : Word) (s : State) : (s.setAcc v).flags = s.flags := rfl
@[simp] theorem State.setAcc_dm (v : Word) (s : State) : (s.setAcc v).dm = s.dm := rfl
@[simp] theorem State.setAcc_im (v : Word) (s : State) : (s.setAcc v).im = s.im := rfl
@[simp] theorem State.setAcc_fact (v : Word) (s : State) : (s.setAcc v).fact = s.fact := rfl
@[simp] theorem State.setAcc_draws (v : Word) (s : State) : (s.setAcc v).draws = s.draws := rfl

/-! ## setX -/

@[simp] theorem State.setX_acc (v : Word) (s : State) : (s.setX v).acc = s.acc := rfl
@[simp] theorem State.setX_x (v : Word) (s : State) : (s.setX v).x = v := rfl
@[simp] theorem State.setX_y (v : Word) (s : State) : (s.setX v).y = s.y := rfl
@[simp] theorem State.setX_pc (v : Word) (s : State) : (s.setX v).pc = s.pc := rfl
@[simp] theorem State.setX_sp (v : Word) (s : State) : (s.setX v).sp = s.sp := rfl
@[simp] theorem State.setX_flags (v : Word) (s : State) : (s.setX v).flags = s.flags := rfl
@[simp] theorem State.setX_dm (v : Word) (s : State) : (s.setX v).dm = s.dm := rfl
@[simp] theorem State.setX_im (v : Word) (s : State) : (s.setX v).im = s.im := rfl
@[simp] theorem State.setX_fact (v : Word) (s : State) : (s.setX v).fact = s.fact := rfl
@[simp] theorem State.setX_draws (v : Word) (s : State) : (s.setX v).draws = s.draws := rfl

/-! ## setY -/

@[simp] theorem State.setY_acc (v : Word) (s : State) : (s.setY v).acc = s.acc := rfl
@[simp] theorem State.setY_x (v : Word) (s : State) : (s.setY v).x = s.x := rfl
@[simp] theorem State.setY_y (v : Word) (s : State) : (s.setY v).y = v := rfl
@[simp] theorem State.setY_pc (v : Word) (s : State) : (s.setY v).pc = s.pc := rfl
@[simp] theorem State.setY_sp (v : Word) (s : State) : (s.setY v).sp = s.sp := rfl
@[simp] theorem State.setY_flags (v : Word) (s : State) : (s.setY v).flags = s.flags := rfl
@[simp] theorem State.setY_dm (v : Word) (s : State) : (s.setY v).dm = s.dm := rfl
@[simp] theorem State.setY_im (v : Word) (s : State) : (s.setY v).im = s.im := rfl
@[simp] theorem State.setY_fact (v : Word) (s : State) : (s.setY v).fact = s.fact := rfl
@[simp] theorem State.setY_draws (v : Word) (s : State) : (s.setY v).draws = s.draws := rfl

/-! ## setPc -/

@[simp] theorem State.setPc_acc (v : Word) (s : State) : (s.setPc v).acc = s.acc := rfl
@[simp] theorem State.setPc_x (v : Word) (s : State) : (s.setPc v).x = s.x := rfl
@[simp] theorem State.setPc_y (v : Word) (s : State) : (s.setPc v).y = s.y := rfl
@[simp] theorem State.setPc_pc (v : Word) (s : State) : (s.setPc v).pc = v := rfl
@[simp] theorem State.setPc_sp (v : Word) (s : State) : (s.setPc v).sp = s.sp := rfl
@[simp] theorem State.setPc_flags (v : Word) (s : State) : (s.setPc v).flags = s.flags := rfl
@[simp] theorem State.setPc_dm (v : Word) (s : State) : (s.setPc v).dm = s.dm := rfl
@[simp] theorem State.setPc_im (v : Word) (s : State) : (s.setPc v).im = s.im := rfl
@[simp] theorem State.setPc_fact (v : Word) (s : State) : (s.setPc v).fact = s.fact := rfl
@[simp] theorem State.setPc_draws (v : Word) (s : State) : (s.setPc v).draws = s.draws := rfl

/-! ## setSp -/

@[simp] theorem State.setSp_acc (v : Word) (s : State) : (s.setSp v).acc = s.acc := rfl
@[simp] theorem State.setSp_x (v : Word) (s : State) : (s.setSp v).x = s.x := rfl
@[simp] theorem State.setSp_y (v : Word) (s : State) : (s.setSp v).y = s.y := rfl
@[simp] theorem State.setSp_pc (v : Word) (s : State) : (s.setSp v).pc = s.pc := rfl
@[simp] theorem State.setSp_sp (v : Word) (s : State) : (s.setSp v).sp = v := rfl
@[simp] theorem State.setSp_flags (v : Word) (s : State) : (s.setSp v).flags = s.flags := rfl
@[simp] theorem State.setSp_dm (v : Word) (s : State) : (s.setSp v).dm = s.dm := rfl
@[simp] theorem State.setSp_im (v : Word) (s : State) : (s.setSp v).im = s.im := rfl
@[simp] theorem State.setSp_fact (v : Word) (s : State) : (s.setSp v).fact = s.fact := rfl
@[simp] theorem State.setSp_draws (v : Word) (s : State) : (s.setSp v).draws = s.draws := rfl

/-! ## setFlags -/

@[simp] theorem State.setFlags_acc (v : Flags) (s : State) : (s.setFlags v).acc = s.acc := rfl
@[simp] theorem State.setFlags_x (v : Flags) (s : State) : (s.setFlags v).x = s.x := rfl
@[simp] theorem State.setFlags_y (v : Flags) (s : State) : (s.setFlags v).y = s.y := rfl
@[simp] theorem State.setFlags_pc (v : Flags) (s : State) : (s.setFlags v).pc = s.pc := rfl
@[simp] theorem State.setFlags_sp (v : Flags) (s : State) : (s.setFlags v).sp = s.sp := rfl
@[simp] theorem State.setFlags_flags (v : Flags) (s : State) : (s.setFlags v).flags = v := rfl
@[simp] theorem State.setFlags_dm (v : Flags) (s : State) : (s.setFlags v).dm = s.dm := rfl
@[simp] theorem State.setFlags_im (v : Flags) (s : State) : (s.setFlags v).im = s.im := rfl
@[simp] theorem State.setFlags_fact (v : Flags) (s : State) : (s.setFlags v).fact = s.fact := rfl
@[simp] theorem State.setFlags_draws (v : Flags) (s : State) : (s.setFlags v).draws = s.draws := rfl

/-! ## setDm -/

@[simp] theorem State.setDm_acc (v : Memory) (s : State) : (s.setDm v).acc = s.acc := rfl
@[simp] theorem State.setDm_x (v : Memory) (s : State) : (s.setDm v).x = s.x := rfl
@[simp] theorem State.setDm_y (v : Memory) (s : State) : (s.setDm v).y = s.y := rfl
@[simp] theorem State.setDm_pc (v : Memory) (s : State) : (s.setDm v).pc = s.pc := rfl
@[simp] theorem State.setDm_sp (v : Memory) (s : State) : (s.setDm v).sp = s.sp := rfl
@[simp] theorem State.setDm_flags (v : Memory) (s : State) : (s.setDm v).flags = s.flags := rfl
@[simp] theorem State.setDm_dm (v : Memory) (s : State) : (s.setDm v).dm = v := rfl
@[simp] theorem State.setDm_im (v : Memory) (s : State) : (s.setDm v).im = s.im := rfl
@[simp] theorem State.setDm_fact (v : Memory) (s : State) : (s.setDm v).fact = s.fact := rfl
@[simp] theorem State.setDm_draws (v : Memory) (s : State) : (s.setDm v).draws = s.draws := rfl

/-! ## setIm -/

@[simp] theorem State.setIm_acc (v : Memory) (s : State) : (s.setIm v).acc = s.acc := rfl
@[simp] theorem State.setIm_x (v : Memory) (s : State) : (s.setIm v).x = s.x := rfl
@[simp] theorem State.setIm_y (v : Memory) (s : State) : (s.setIm v).y = s.y := rfl
@[simp] theorem State.setIm_pc (v : Memory) (s : State) : (s.setIm v).pc = s.pc := rfl
@[simp] theorem State.setIm_sp (v : Memory) (s : State) : (s.setIm v).sp = s.sp := rfl
@[simp] theorem State.setIm_flags (v : Memory) (s : State) : (s.setIm v).flags = s.flags := rfl
@[simp] theorem State.setIm_dm (v : Memory) (s : State) : (s.setIm v).dm = s.dm := rfl
@[simp] theorem State.setIm_im (v : Memory) (s : State) : (s.setIm v).im = v := rfl
@[simp] theorem State.setIm_fact (v : Memory) (s : State) : (s.setIm v).fact = s.fact := rfl
@[simp] theorem State.setIm_draws (v : Memory) (s : State) : (s.setIm v).draws = s.draws := rfl

/-! ## setFact -/

@[simp] theorem State.setFact_acc (v : FactUnit) (s : State) : (s.setFact v).acc = s.acc := rfl
@[simp] theorem State.setFact_x (v : FactUnit) (s : State) : (s.setFact v).x = s.x := rfl
@[simp] theorem State.setFact_y (v : FactUnit) (s : State) : (s.setFact v).y = s.y := rfl
@[simp] theorem State.setFact_pc (v : FactUnit) (s : State) : (s.setFact v).pc = s.pc := rfl
@[simp] theorem State.setFact_sp (v : FactUnit) (s : State) : (s.setFact v).sp = s.sp := rfl
@[simp] theorem State.setFact_flags (v : FactUnit) (s : State) : (s.setFact v).flags = s.flags := rfl
@[simp] theorem State.setFact_dm (v : FactUnit) (s : State) : (s.setFact v).dm = s.dm := rfl
@[simp] theorem State.setFact_im (v : FactUnit) (s : State) : (s.setFact v).im = s.im := rfl
@[simp] theorem State.setFact_fact (v : FactUnit) (s : State) : (s.setFact v).fact = v := rfl
@[simp] theorem State.setFact_draws (v : FactUnit) (s : State) : (s.setFact v).draws = s.draws := rfl

/-! ## setDraws -/

@[simp] theorem State.setDraws_acc (v : Nat) (s : State) : (s.setDraws v).acc = s.acc := rfl
@[simp] theorem State.setDraws_x (v : Nat) (s : State) : (s.setDraws v).x = s.x := rfl
@[simp] theorem State.setDraws_y (v : Nat) (s : State) : (s.setDraws v).y = s.y := rfl
@[simp] theorem State.setDraws_pc (v : Nat) (s : State) : (s.setDraws v).pc = s.pc := rfl
@[simp] theorem State.setDraws_sp (v : Nat) (s : State) : (s.setDraws v).sp = s.sp := rfl
@[simp] theorem State.setDraws_flags (v : Nat) (s : State) : (s.setDraws v).flags = s.flags := rfl
@[simp] theorem State.setDraws_dm (v : Nat) (s : State) : (s.setDraws v).dm = s.dm := rfl
@[simp] theorem State.setDraws_im (v : Nat) (s : State) : (s.setDraws v).im = s.im := rfl
@[simp] theorem State.setDraws_fact (v : Nat) (s : State) : (s.setDraws v).fact = s.fact := rfl
@[simp] theorem State.setDraws_draws (v : Nat) (s : State) : (s.setDraws v).draws = v := rfl

/-- Two states with equal fields are equal. -/
theorem State.eq_of_fields {s t : State} (hacc : s.acc = t.acc) (hx : s.x = t.x) (hy : s.y = t.y)
    (hpc : s.pc = t.pc) (hsp : s.sp = t.sp) (hflags : s.flags = t.flags) (hdm : s.dm = t.dm)
    (him : s.im = t.im) (hfact : s.fact = t.fact) (hdraws : s.draws = t.draws) : s = t := by
  cases s; cases t; simp_all

end Sys2Proof.Machine
end

