-- ==== Sys2Proof/Laws/Memory.lean ====
section
/-! SUPPORT. The laws of the memories: read after write, and that writing keeps the canonical form. -/

namespace Sys2Proof.Machine

/-! ## Listing and erasing -/

@[simp] theorem memFind_memErase_same (a : Nat) (m : Memory) : memFind a (memErase a m) = none := by
  induction m with
  | nil => rfl
  | cons e rest ih =>
    obtain ⟨k, w⟩ := e
    by_cases h : k = a <;> simp [memErase, memFind, h, ih]

theorem memFind_memErase_other {a b : Nat} (h : b ≠ a) (m : Memory) :
    memFind b (memErase a m) = memFind b m := by
  induction m with
  | nil => rfl
  | cons e rest ih =>
    obtain ⟨k, w⟩ := e
    by_cases hk : k = a
    · subst hk
      simp [memErase, memFind, ih, Ne.symm h]
    · simp [memErase, memFind, hk, ih]

@[simp] theorem memFind_memInsert_same (a : Nat) (v : Word) (m : Memory) :
    memFind a (memInsert a v m) = some v := by
  induction m with
  | nil => simp [memInsert, memFind]
  | cons e rest ih =>
    obtain ⟨k, w⟩ := e
    by_cases h1 : a < k
    · simp [memInsert, memFind, h1]
    · by_cases h2 : a = k
      · simp [memInsert, memFind, h2]
      · simp [memInsert, memFind, h1, h2, Ne.symm h2, ih]

theorem memFind_memInsert_other {a b : Nat} (h : b ≠ a) (v : Word) (m : Memory) :
    memFind b (memInsert a v m) = memFind b m := by
  induction m with
  | nil => simp [memInsert, memFind, Ne.symm h]
  | cons e rest ih =>
    obtain ⟨k, w⟩ := e
    by_cases h1 : a < k
    · simp [memInsert, memFind, h1, Ne.symm h]
    · by_cases h2 : a = k
      · subst h2
        simp [memInsert, memFind, Ne.symm h]
      · simp [memInsert, memFind, h1, h2, ih]

/-! ## Read after write -/

/-- A read after a write to the same address gives the value written. -/
@[simp] theorem memRead_memWrite_same (init : Nat → Option Word) (a : Nat) (v : Word) (m : Memory) :
    memRead init a (memWrite init a v m) = some v := by
  unfold memWrite
  split
  · simp [memRead, *]
  · simp [memRead]

/-- A write leaves every other address alone. -/
theorem memRead_memWrite_other (init : Nat → Option Word) {a b : Nat} (h : b ≠ a) (v : Word) (m : Memory) :
    memRead init b (memWrite init a v m) = memRead init b m := by
  unfold memWrite
  split
  · simp [memRead, memFind_memErase_other h]
  · simp [memRead, memFind_memInsert_other h]

/-! ## The canonical form -/

theorem mem_memErase {a : Nat} {m : Memory} {e : Nat × Word} (h : e ∈ memErase a m) : e ∈ m := by
  induction m with
  | nil => exact h
  | cons d rest ih =>
    obtain ⟨k, w⟩ := d
    by_cases hk : k = a
    · simp only [memErase, hk, if_true] at h
      exact List.mem_cons_of_mem _ (ih h)
    · simp only [memErase, hk, if_false, List.mem_cons] at h ⊢
      exact h.imp id ih

theorem mem_memInsert {a : Nat} {v : Word} {m : Memory} {e : Nat × Word} (h : e ∈ memInsert a v m) :
    e = (a, v) ∨ e ∈ m := by
  induction m with
  | nil => exact .inl (by simpa [memInsert] using h)
  | cons d rest ih =>
    obtain ⟨k, w⟩ := d
    by_cases h1 : a < k
    · simpa [memInsert, h1] using h
    · by_cases h2 : a = k
      · subst h2
        simp only [memInsert, lt_irrefl, if_false, if_true, List.mem_cons] at h ⊢
        exact h.imp id .inr
      · simp only [memInsert, h1, h2, if_false, List.mem_cons] at h ⊢
        rcases h with h | h
        · exact .inr (.inl h)
        · exact (ih h).imp id .inr

theorem memErase_rising {a : Nat} {m : Memory} (h : m.Pairwise (fun p q => p.1 < q.1)) :
    (memErase a m).Pairwise (fun p q => p.1 < q.1) := by
  induction m with
  | nil => exact h
  | cons d rest ih =>
    obtain ⟨k, w⟩ := d
    obtain ⟨hd, hr⟩ := List.pairwise_cons.mp h
    by_cases hk : k = a
    · simpa [memErase, hk] using ih hr
    · simp only [memErase, hk, if_false]
      exact List.pairwise_cons.mpr ⟨fun e he => hd e (mem_memErase he), ih hr⟩

theorem memInsert_rising {a : Nat} {v : Word} {m : Memory} (h : m.Pairwise (fun p q => p.1 < q.1)) :
    (memInsert a v m).Pairwise (fun p q => p.1 < q.1) := by
  induction m with
  | nil => simp [memInsert]
  | cons d rest ih =>
    obtain ⟨k, w⟩ := d
    obtain ⟨hd, hr⟩ := List.pairwise_cons.mp h
    by_cases h1 : a < k
    · simp only [memInsert, h1, if_true]
      refine List.pairwise_cons.mpr ⟨fun e he => ?_, h⟩
      rcases List.mem_cons.mp he with rfl | he
      · exact h1
      · exact lt_trans h1 (hd e he)
    · by_cases h2 : a = k
      · subst h2
        simp only [memInsert, lt_irrefl, if_false, if_true]
        exact List.pairwise_cons.mpr ⟨hd, hr⟩
      · simp only [memInsert, h1, h2, if_false]
        refine List.pairwise_cons.mpr ⟨fun e he => ?_, ih hr⟩
        rcases mem_memInsert he with rfl | he
        · show k < a; omega
        · exact hd e he

/-- Every write keeps the canonical form. -/
theorem memWrite_wf {init : Nat → Option Word} {size a : Nat} {v : Word} {m : Memory} (ha : a < size)
    (h : Memory.wf init size m) : Memory.wf init size (memWrite init a v m) := by
  obtain ⟨hr, he⟩ := h
  unfold memWrite
  split
  · exact ⟨memErase_rising hr, fun e hm => he e (mem_memErase hm)⟩
  · refine ⟨memInsert_rising hr, fun e hm => ?_⟩
    rcases mem_memInsert hm with rfl | hm
    · exact ⟨ha, ‹_›⟩
    · exact he e hm

/-! ## The two memories of the machine -/

@[simp] theorem dmRead_dmWrite_same (a : BitVec 9) (v : Word) (s : State) :
    dmRead a (dmWrite a v s) = some v := by
  simp [dmRead, dmWrite]

theorem dmRead_dmWrite_other {a b : BitVec 9} (h : b ≠ a) (v : Word) (s : State) :
    dmRead b (dmWrite a v s) = dmRead b s := by
  have : b.toNat ≠ a.toNat := fun e => h (BitVec.eq_of_toNat_eq e)
  simp [dmRead, dmWrite, memRead_memWrite_other dmInit this]

@[simp] theorem imRead_imPlace_same (a : BitVec 10) (w : Word) (s : State) :
    imRead a (imPlace a w s) = some w := by
  simp [imRead, imPlace]

theorem imRead_imPlace_other {a b : BitVec 10} (h : b ≠ a) (w : Word) (s : State) :
    imRead b (imPlace a w s) = imRead b s := by
  have : b.toNat ≠ a.toNat := fun e => h (BitVec.eq_of_toNat_eq e)
  simp [imRead, imPlace, memRead_memWrite_other imInit this]

/-- A read of the data memory depends on that memory alone. -/
theorem dmRead_congr {a : BitVec 9} {s t : State} (h : t.dm = s.dm) : dmRead a t = dmRead a s := by
  simp [dmRead, h]

/-- A read of the instruction memory depends on that memory alone. -/
theorem imRead_congr {a : BitVec 10} {s t : State} (h : t.im = s.im) : imRead a t = imRead a s := by
  simp [imRead, h]

/-- The reset state's memories are in canonical form. -/
theorem reset_memories_wf :
    Memory.wf dmInit Config.dmSize State.reset.dm ∧ Memory.wf imInit Config.imSize State.reset.im := by
  simp [State.reset, Memory.wf]

end Sys2Proof.Machine
end

