-- ==== Sys2Proof/Laws/Ops.lean ====
section
/-! SUPPORT. For each shared operation, once, everything it can do: the fields it leaves alone (simp), the one
it writes, and for the operations that can stop an equivalence that says when they go on and with what. -/

namespace Sys2Proof.Machine

/-! ## Program counter -/

@[simp] theorem nextPc_pc (s : State) : (nextPc s).pc = s.pc + 1 := rfl
@[simp] theorem nextPc_acc  (s : State) : (nextPc s).acc = s.acc := rfl
@[simp] theorem nextPc_x  (s : State) : (nextPc s).x = s.x := rfl
@[simp] theorem nextPc_y  (s : State) : (nextPc s).y = s.y := rfl
@[simp] theorem nextPc_sp  (s : State) : (nextPc s).sp = s.sp := rfl
@[simp] theorem nextPc_flags  (s : State) : (nextPc s).flags = s.flags := rfl
@[simp] theorem nextPc_dm  (s : State) : (nextPc s).dm = s.dm := rfl
@[simp] theorem nextPc_im  (s : State) : (nextPc s).im = s.im := rfl
@[simp] theorem nextPc_fact  (s : State) : (nextPc s).fact = s.fact := rfl
@[simp] theorem nextPc_draws  (s : State) : (nextPc s).draws = s.draws := rfl

/-! ## Writes to the memories -/

@[simp] theorem dmWrite_dm (a : BitVec 9) (v : Word) (s : State) :
    (dmWrite a v s).dm = memWrite dmInit a.toNat v s.dm := rfl
@[simp] theorem dmWrite_acc (a : BitVec 9) (v : Word) (s : State) : (dmWrite a v s).acc = s.acc := rfl
@[simp] theorem dmWrite_x (a : BitVec 9) (v : Word) (s : State) : (dmWrite a v s).x = s.x := rfl
@[simp] theorem dmWrite_y (a : BitVec 9) (v : Word) (s : State) : (dmWrite a v s).y = s.y := rfl
@[simp] theorem dmWrite_pc (a : BitVec 9) (v : Word) (s : State) : (dmWrite a v s).pc = s.pc := rfl
@[simp] theorem dmWrite_sp (a : BitVec 9) (v : Word) (s : State) : (dmWrite a v s).sp = s.sp := rfl
@[simp] theorem dmWrite_flags (a : BitVec 9) (v : Word) (s : State) : (dmWrite a v s).flags = s.flags := rfl
@[simp] theorem dmWrite_im (a : BitVec 9) (v : Word) (s : State) : (dmWrite a v s).im = s.im := rfl
@[simp] theorem dmWrite_fact (a : BitVec 9) (v : Word) (s : State) : (dmWrite a v s).fact = s.fact := rfl
@[simp] theorem dmWrite_draws (a : BitVec 9) (v : Word) (s : State) : (dmWrite a v s).draws = s.draws := rfl

@[simp] theorem imPlace_acc (a : BitVec 10) (w : Word) (s : State) : (imPlace a w s).acc = s.acc := rfl
@[simp] theorem imPlace_x (a : BitVec 10) (w : Word) (s : State) : (imPlace a w s).x = s.x := rfl
@[simp] theorem imPlace_y (a : BitVec 10) (w : Word) (s : State) : (imPlace a w s).y = s.y := rfl
@[simp] theorem imPlace_pc (a : BitVec 10) (w : Word) (s : State) : (imPlace a w s).pc = s.pc := rfl
@[simp] theorem imPlace_sp (a : BitVec 10) (w : Word) (s : State) : (imPlace a w s).sp = s.sp := rfl
@[simp] theorem imPlace_flags (a : BitVec 10) (w : Word) (s : State) : (imPlace a w s).flags = s.flags := rfl
@[simp] theorem imPlace_dm (a : BitVec 10) (w : Word) (s : State) : (imPlace a w s).dm = s.dm := rfl
@[simp] theorem imPlace_fact (a : BitVec 10) (w : Word) (s : State) : (imPlace a w s).fact = s.fact := rfl
@[simp] theorem imPlace_draws (a : BitVec 10) (w : Word) (s : State) : (imPlace a w s).draws = s.draws := rfl

/-! ## The stack -/

@[simp] theorem pushWord_sp (o : Config.StackOrder) (v : Word) (s : State) : (pushWord o v s).sp = s.sp - 1 := rfl
@[simp] theorem pushWord_dm (o : Config.StackOrder) (v : Word) (s : State) :
    (pushWord o v s).dm = memWrite dmInit (pushAddr o s.sp).toNat v s.dm := rfl
@[simp] theorem pushWord_acc (o : Config.StackOrder) (v : Word) (s : State) : (pushWord o v s).acc = s.acc := rfl
@[simp] theorem pushWord_x (o : Config.StackOrder) (v : Word) (s : State) : (pushWord o v s).x = s.x := rfl
@[simp] theorem pushWord_y (o : Config.StackOrder) (v : Word) (s : State) : (pushWord o v s).y = s.y := rfl
@[simp] theorem pushWord_pc (o : Config.StackOrder) (v : Word) (s : State) : (pushWord o v s).pc = s.pc := rfl
@[simp] theorem pushWord_flags (o : Config.StackOrder) (v : Word) (s : State) : (pushWord o v s).flags = s.flags := rfl
@[simp] theorem pushWord_im (o : Config.StackOrder) (v : Word) (s : State) : (pushWord o v s).im = s.im := rfl
@[simp] theorem pushWord_fact (o : Config.StackOrder) (v : Word) (s : State) : (pushWord o v s).fact = s.fact := rfl
@[simp] theorem pushWord_draws (o : Config.StackOrder) (v : Word) (s : State) : (pushWord o v s).draws = s.draws := rfl

/-- A pop after a push loads from where the push stored, under either order (42_stack.md R120). -/
@[simp] theorem popAddr_after_push (o : Config.StackOrder) (sp : Word) : popAddr o (sp - 1#16) = pushAddr o sp := by
  cases o <;> simp [popAddr, pushAddr]

/-- The word a push stored is the word read at its address. -/
theorem dmRead_pushWord_same (o : Config.StackOrder) (v : Word) (s : State) :
    dmRead (pushAddr o s.sp) (pushWord o v s) = some v := by
  simp [dmRead]

/-- A push leaves every other data memory word alone. -/
theorem dmRead_pushWord_other (o : Config.StackOrder) {b : BitVec 9} (v : Word) (s : State)
    (h : b ≠ pushAddr o s.sp) : dmRead b (pushWord o v s) = dmRead b s :=
  dmRead_dmWrite_other h v s

/-! ## Loads: when they go on and with what -/

theorem withLoaded_eq_next {a : BitVec 9} {s t : State} {k : Word → State} :
    withLoaded a s k = .next t ↔ ∃ v, dmRead a s = some v ∧ k v = t := by
  unfold withLoaded; cases dmRead a s <;> simp

theorem withLoaded_of_some {a : BitVec 9} {s : State} {k : Word → State} {v : Word} (h : dmRead a s = some v) :
    withLoaded a s k = .next (k v) := by
  simp [withLoaded, h]

theorem withLoaded_of_none {a : BitVec 9} {s : State} {k : Word → State} (h : dmRead a s = none) :
    withLoaded a s k = .fault .uninitialisedRead := by
  simp [withLoaded, h]

theorem popWord_eq_next {o : Config.StackOrder} {s t : State} {k : Word → State → State} :
    popWord o s k = .next t ↔ ∃ v, dmRead (popAddr o s.sp) s = some v ∧ k v (s.setSp (s.sp + 1)) = t :=
  withLoaded_eq_next

/-! ## Registers -/

@[simp] theorem readReg_writeReg_same (ra : Reg) (v : Word) (s : State) : readReg ra (writeReg ra v s) = v := by
  cases ra <;> rfl

/-- Writing one of X, Y leaves the other alone. -/
theorem readReg_writeReg_other {ra rb : Reg} (h : rb ≠ ra) (v : Word) (s : State) :
    readReg rb (writeReg ra v s) = readReg rb s := by
  cases ra <;> cases rb <;> first | rfl | exact absurd rfl h

@[simp] theorem writeReg_acc (ra : Reg) (v : Word) (s : State) : (writeReg ra v s).acc = s.acc := by cases ra <;> rfl
@[simp] theorem writeReg_pc (ra : Reg) (v : Word) (s : State) : (writeReg ra v s).pc = s.pc := by cases ra <;> rfl
@[simp] theorem writeReg_sp (ra : Reg) (v : Word) (s : State) : (writeReg ra v s).sp = s.sp := by cases ra <;> rfl
@[simp] theorem writeReg_flags (ra : Reg) (v : Word) (s : State) : (writeReg ra v s).flags = s.flags := by cases ra <;> rfl
@[simp] theorem writeReg_dm (ra : Reg) (v : Word) (s : State) : (writeReg ra v s).dm = s.dm := by cases ra <;> rfl
@[simp] theorem writeReg_im (ra : Reg) (v : Word) (s : State) : (writeReg ra v s).im = s.im := by cases ra <;> rfl
@[simp] theorem writeReg_fact (ra : Reg) (v : Word) (s : State) : (writeReg ra v s).fact = s.fact := by cases ra <;> rfl
@[simp] theorem writeReg_draws (ra : Reg) (v : Word) (s : State) : (writeReg ra v s).draws = s.draws := by cases ra <;> rfl

@[simp] theorem writeDest_pc (d : Dest) (v : Word) (s : State) : (writeDest d v s).pc = s.pc := by
  cases d <;> simp [writeDest]
@[simp] theorem writeDest_sp (d : Dest) (v : Word) (s : State) : (writeDest d v s).sp = s.sp := by
  cases d <;> simp [writeDest]
@[simp] theorem writeDest_flags (d : Dest) (v : Word) (s : State) : (writeDest d v s).flags = s.flags := by
  cases d <;> simp [writeDest]
@[simp] theorem writeDest_dm (d : Dest) (v : Word) (s : State) : (writeDest d v s).dm = s.dm := by
  cases d <;> simp [writeDest]
@[simp] theorem writeDest_im (d : Dest) (v : Word) (s : State) : (writeDest d v s).im = s.im := by
  cases d <;> simp [writeDest]
@[simp] theorem writeDest_fact (d : Dest) (v : Word) (s : State) : (writeDest d v s).fact = s.fact := by
  cases d <;> simp [writeDest]
@[simp] theorem writeDest_draws (d : Dest) (v : Word) (s : State) : (writeDest d v s).draws = s.draws := by
  cases d <;> simp [writeDest]

/-! ## ALU write-back (44_alu_common.md R142) -/

@[simp] theorem writeBack_pc (d : Dest) (o : AluOut) (s : State) : (writeBack d o s).pc = s.pc + 1 := by
  simp [writeBack]
@[simp] theorem writeBack_flags (d : Dest) (o : AluOut) (s : State) : (writeBack d o s).flags = o.flags := by
  simp [writeBack]
@[simp] theorem writeBack_acc_acc (o : AluOut) (s : State) : (writeBack .acc o s).acc = o.res := rfl
@[simp] theorem writeBack_acc_x (o : AluOut) (s : State) : (writeBack .acc o s).x = s.x := rfl
@[simp] theorem writeBack_acc_y (o : AluOut) (s : State) : (writeBack .acc o s).y = s.y := rfl
@[simp] theorem writeBack_none_acc (o : AluOut) (s : State) : (writeBack .none o s).acc = s.acc := rfl
@[simp] theorem writeBack_none_x (o : AluOut) (s : State) : (writeBack .none o s).x = s.x := rfl
@[simp] theorem writeBack_none_y (o : AluOut) (s : State) : (writeBack .none o s).y = s.y := rfl
@[simp] theorem writeBack_reg_acc (ra : Reg) (o : AluOut) (s : State) : (writeBack (.reg ra) o s).acc = s.acc := by
  simp [writeBack, writeDest]
@[simp] theorem readReg_writeBack_same (ra : Reg) (o : AluOut) (s : State) :
    readReg ra (writeBack (.reg ra) o s) = o.res := by
  cases ra <;> rfl

/-- A result written to one of X, Y leaves the other alone. -/
theorem readReg_writeBack_other {ra rb : Reg} (h : rb ≠ ra) (o : AluOut) (s : State) :
    readReg rb (writeBack (.reg ra) o s) = readReg rb s := by
  cases ra <;> cases rb <;> first | rfl | exact absurd rfl h

@[simp] theorem writeBack_sp (d : Dest) (o : AluOut) (s : State) : (writeBack d o s).sp = s.sp := by
  simp [writeBack]
@[simp] theorem writeBack_dm (d : Dest) (o : AluOut) (s : State) : (writeBack d o s).dm = s.dm := by
  simp [writeBack]
@[simp] theorem writeBack_im (d : Dest) (o : AluOut) (s : State) : (writeBack d o s).im = s.im := by
  simp [writeBack]
@[simp] theorem writeBack_fact (d : Dest) (o : AluOut) (s : State) : (writeBack d o s).fact = s.fact := by
  simp [writeBack]
@[simp] theorem writeBack_draws (d : Dest) (o : AluOut) (s : State) : (writeBack d o s).draws = s.draws := by
  simp [writeBack]

/-- A two-form instruction always goes on, with its operation's write-back. -/
theorem aluTwoForm_eq (op : Word → Word → AluOut) (ra : Reg) (imm : BitVec 9) (s : State) :
    aluTwoForm op ra imm s =
      .next (writeBack (twoForm ra imm s).dest (op (twoForm ra imm s).left (twoForm ra imm s).right) s) := rfl

/-- A division goes on exactly when its right operand is not 0. -/
theorem aluDivision_of_ne_zero {op : Word → Word → AluOut} {ra : Reg} {imm : BitVec 9} {s : State}
    (h : (twoForm ra imm s).right ≠ 0) : aluDivision op ra imm s = aluTwoForm op ra imm s := if_neg h

theorem aluDivision_of_zero {op : Word → Word → AluOut} {ra : Reg} {imm : BitVec 9} {s : State}
    (h : (twoForm ra imm s).right = 0) : aluDivision op ra imm s = .fault .divideByZero := if_pos h

/-- The accumulator form. -/
theorem twoForm_zero (ra : Reg) (s : State) :
    twoForm ra 0 s = { left := s.acc, right := readReg ra s, dest := .acc } := rfl

/-- The immediate form. -/
theorem twoForm_imm {ra : Reg} {imm : BitVec 9} (h : imm ≠ 0) (s : State) :
    twoForm ra imm s = { left := readReg ra s, right := sextImm imm, dest := .reg ra } := if_neg h

/-! ## Branches and popped words -/

@[simp] theorem branchIf_pc (cond : Bool) (ba : BitVec 10) (s : State) :
    (branchIf cond ba s).pc = if cond then zextBa ba else s.pc + 1 := by
  cases cond <;> rfl
@[simp] theorem branchIf_acc (cond : Bool) (ba : BitVec 10) (s : State) : (branchIf cond ba s).acc = s.acc := by
  cases cond <;> rfl
@[simp] theorem branchIf_x (cond : Bool) (ba : BitVec 10) (s : State) : (branchIf cond ba s).x = s.x := by
  cases cond <;> rfl
@[simp] theorem branchIf_y (cond : Bool) (ba : BitVec 10) (s : State) : (branchIf cond ba s).y = s.y := by
  cases cond <;> rfl
@[simp] theorem branchIf_sp (cond : Bool) (ba : BitVec 10) (s : State) : (branchIf cond ba s).sp = s.sp := by
  cases cond <;> rfl
@[simp] theorem branchIf_flags (cond : Bool) (ba : BitVec 10) (s : State) : (branchIf cond ba s).flags = s.flags := by
  cases cond <;> rfl
@[simp] theorem branchIf_dm (cond : Bool) (ba : BitVec 10) (s : State) : (branchIf cond ba s).dm = s.dm := by
  cases cond <;> rfl
@[simp] theorem branchIf_im (cond : Bool) (ba : BitVec 10) (s : State) : (branchIf cond ba s).im = s.im := by
  cases cond <;> rfl
@[simp] theorem branchIf_fact (cond : Bool) (ba : BitVec 10) (s : State) : (branchIf cond ba s).fact = s.fact := by
  cases cond <;> rfl
@[simp] theorem branchIf_draws (cond : Bool) (ba : BitVec 10) (s : State) : (branchIf cond ba s).draws = s.draws := by
  cases cond <;> rfl

@[simp] theorem writePopped_pc (ss : StackReg) (v : Word) (s : State) :
    (writePopped ss v s).pc = if ss = .pc then v + 2 else s.pc + 1 := by
  cases ss <;> rfl
@[simp] theorem writePopped_acc (ss : StackReg) (v : Word) (s : State) :
    (writePopped ss v s).acc = if ss = .acc then v else s.acc := by
  cases ss <;> rfl
@[simp] theorem writePopped_x (ss : StackReg) (v : Word) (s : State) :
    (writePopped ss v s).x = if ss = .x then v else s.x := by
  cases ss <;> rfl
@[simp] theorem writePopped_y (ss : StackReg) (v : Word) (s : State) :
    (writePopped ss v s).y = if ss = .y then v else s.y := by
  cases ss <;> rfl
@[simp] theorem writePopped_sp (ss : StackReg) (v : Word) (s : State) : (writePopped ss v s).sp = s.sp := by
  cases ss <;> rfl
@[simp] theorem writePopped_flags (ss : StackReg) (v : Word) (s : State) : (writePopped ss v s).flags = s.flags := by
  cases ss <;> rfl
@[simp] theorem writePopped_dm (ss : StackReg) (v : Word) (s : State) : (writePopped ss v s).dm = s.dm := by
  cases ss <;> rfl
@[simp] theorem writePopped_im (ss : StackReg) (v : Word) (s : State) : (writePopped ss v s).im = s.im := by
  cases ss <;> rfl
@[simp] theorem writePopped_fact (ss : StackReg) (v : Word) (s : State) : (writePopped ss v s).fact = s.fact := by
  cases ss <;> rfl
@[simp] theorem writePopped_draws (ss : StackReg) (v : Word) (s : State) : (writePopped ss v s).draws = s.draws := by
  cases ss <;> rfl

/-! ## The factorial instruction -/

/-- FCT goes on exactly when IMM is not 0. -/
theorem execFct_of_ne_zero {ra : Reg} {imm : BitVec 9} {s : State} (h : imm ≠ 0) :
    execFct ra imm s = .next (((writeBack (.reg ra)
      { res := factResult imm s.fact, flags := fctFlags s.draws (factResult imm s.fact) } s).setFact
      (factIdle s.draws)).setDraws (s.draws + 1)) := if_neg h

theorem execFct_zero (ra : Reg) (s : State) : execFct ra 0 s = .fault .factorialOfZero := rfl

/-- FACT_END is raised when the timer is 1. -/
theorem factEnd_iff (u : FactUnit) : factEnd u = true ↔ u.cnt = 1 := by simp [factEnd]

end Sys2Proof.Machine
end

