-- ==== Sys2Proof/Laws/PerInstr.lean ====
section
/-! SUPPORT. A law said of every instruction as syntax: each of its words stands in the opcode map, in the row of a
machine instruction it stands for (30_encoding.md R66, R70). -/

namespace Sys2Proof.Laws.TableRow

/-- Every word of `i` is a word of the opcode-map row of a machine instruction that `i` stands for. -/
def Statement (i : Instr) : Prop :=
  ∀ w ∈ encode i, ∃ row ∈ opcodeRows,
    row.mnemonic ∈ i.expand.map Instr.mnemonic ∧ w &&& row.mask = row.pattern

/-- An instruction of one word meets the statement if its word is masked to the pattern of its own row. -/
theorem of_one_word {i : Instr} {w : Word} {row : OpRow} (he : encode i = [w]) (hx : i.expand = [i])
    (hrow : row ∈ opcodeRows) (hn : row.mnemonic = i.mnemonic) (hw : w &&& row.mask = row.pattern) :
    Statement i := by
  intro v hv
  rw [he, List.mem_singleton] at hv
  subst hv
  exact ⟨row, hrow, by simp [hx, hn], hw⟩

theorem trx : Statement (.trx) :=
  of_one_word (row := ⟨"TRX", 0x0000, 0xFFFF⟩) rfl rfl (by decide) rfl (encodeF0_masked 0b000000)

theorem try_ : Statement (.try_) :=
  of_one_word (row := ⟨"TRY", 0x0400, 0xFFFF⟩) rfl rfl (by decide) rfl (encodeF0_masked 0b000001)

theorem ldr (ra : Reg) (imm : BitVec 9) : Statement (.ldr ra imm) :=
  of_one_word (row := ⟨"LDR", 0x0800, 0xFC00⟩) rfl rfl (by decide) rfl (encodeFM_masked 0b000010 ra imm)

theorem str (ra : Reg) (imm : BitVec 9) : Statement (.str ra imm) :=
  of_one_word (row := ⟨"STR", 0x0C00, 0xFC00⟩) rfl rfl (by decide) rfl (encodeFM_masked 0b000011 ra imm)

theorem psh (ss : StackReg) : Statement (.psh ss) :=
  of_one_word (row := ⟨"PSH", 0x1000, 0xFCFF⟩) rfl rfl (by decide) rfl (encodeFS_masked 0b000100 ss)

theorem pop (ss : StackReg) : Statement (.pop ss) :=
  of_one_word (row := ⟨"POP", 0x1400, 0xFCFF⟩) rfl rfl (by decide) rfl (encodeFS_masked 0b000101 ss)

theorem brz (ba : BitVec 10) : Statement (.brz ba) :=
  of_one_word (row := ⟨"BRZ", 0x1800, 0xFC00⟩) rfl rfl (by decide) rfl (encodeFB_masked 0b000110 ba)

theorem brn (ba : BitVec 10) : Statement (.brn ba) :=
  of_one_word (row := ⟨"BRN", 0x1C00, 0xFC00⟩) rfl rfl (by decide) rfl (encodeFB_masked 0b000111 ba)

theorem brc (ba : BitVec 10) : Statement (.brc ba) :=
  of_one_word (row := ⟨"BRC", 0x2000, 0xFC00⟩) rfl rfl (by decide) rfl (encodeFB_masked 0b001000 ba)

theorem bro (ba : BitVec 10) : Statement (.bro ba) :=
  of_one_word (row := ⟨"BRO", 0x2400, 0xFC00⟩) rfl rfl (by decide) rfl (encodeFB_masked 0b001001 ba)

theorem bra (ba : BitVec 10) : Statement (.bra ba) :=
  of_one_word (row := ⟨"BRA", 0x2800, 0xFC00⟩) rfl rfl (by decide) rfl (encodeFB_masked 0b001010 ba)

theorem add (ra : Reg) (imm : BitVec 9) : Statement (.add ra imm) :=
  of_one_word (row := ⟨"ADD", 0x3400, 0xFC00⟩) rfl rfl (by decide) rfl (encodeFM_masked 0b001101 ra imm)

theorem sub (ra : Reg) (imm : BitVec 9) : Statement (.sub ra imm) :=
  of_one_word (row := ⟨"SUB", 0x3800, 0xFC00⟩) rfl rfl (by decide) rfl (encodeFM_masked 0b001110 ra imm)

theorem lsr (ra : Reg) (imm : BitVec 9) : Statement (.lsr ra imm) :=
  of_one_word (row := ⟨"LSR", 0x3C00, 0xFC00⟩) rfl rfl (by decide) rfl (encodeFM_masked 0b001111 ra imm)

theorem lsl (ra : Reg) (imm : BitVec 9) : Statement (.lsl ra imm) :=
  of_one_word (row := ⟨"LSL", 0x4000, 0xFC00⟩) rfl rfl (by decide) rfl (encodeFM_masked 0b010000 ra imm)

theorem mul (ra : Reg) (imm : BitVec 9) : Statement (.mul ra imm) :=
  of_one_word (row := ⟨"MUL", 0x4400, 0xFC00⟩) rfl rfl (by decide) rfl (encodeFM_masked 0b010001 ra imm)

theorem div (ra : Reg) (imm : BitVec 9) : Statement (.div ra imm) :=
  of_one_word (row := ⟨"DIV", 0x4800, 0xFC00⟩) rfl rfl (by decide) rfl (encodeFM_masked 0b010010 ra imm)

theorem mod (ra : Reg) (imm : BitVec 9) : Statement (.mod ra imm) :=
  of_one_word (row := ⟨"MOD", 0x4C00, 0xFC00⟩) rfl rfl (by decide) rfl (encodeFM_masked 0b010011 ra imm)

theorem cmp (ra : Reg) (imm : BitVec 9) : Statement (.cmp ra imm) :=
  of_one_word (row := ⟨"CMP", 0x5000, 0xFC00⟩) rfl rfl (by decide) rfl (encodeFM_masked 0b010100 ra imm)

theorem inc (ra : Reg) : Statement (.inc ra) :=
  of_one_word (row := ⟨"INC", 0x5400, 0xFDFF⟩) rfl rfl (by decide) rfl (encodeFU_masked 0b010101 ra)

theorem dec (ra : Reg) : Statement (.dec ra) :=
  of_one_word (row := ⟨"DEC", 0x5800, 0xFDFF⟩) rfl rfl (by decide) rfl (encodeFU_masked 0b010110 ra)

theorem and (ra : Reg) (imm : BitVec 9) : Statement (.and ra imm) :=
  of_one_word (row := ⟨"AND", 0x5C00, 0xFC00⟩) rfl rfl (by decide) rfl (encodeFM_masked 0b010111 ra imm)

theorem or (ra : Reg) (imm : BitVec 9) : Statement (.or ra imm) :=
  of_one_word (row := ⟨"OR", 0x6000, 0xFC00⟩) rfl rfl (by decide) rfl (encodeFM_masked 0b011000 ra imm)

theorem xor (ra : Reg) (imm : BitVec 9) : Statement (.xor ra imm) :=
  of_one_word (row := ⟨"XOR", 0x6400, 0xFC00⟩) rfl rfl (by decide) rfl (encodeFM_masked 0b011001 ra imm)

theorem not (ra : Reg) : Statement (.not ra) :=
  of_one_word (row := ⟨"NOT", 0x6800, 0xFDFF⟩) rfl rfl (by decide) rfl (encodeFU_masked 0b011010 ra)

theorem rsr (ra : Reg) (imm : BitVec 9) : Statement (.rsr ra imm) :=
  of_one_word (row := ⟨"RSR", 0x6C00, 0xFC00⟩) rfl rfl (by decide) rfl (encodeFM_masked 0b011011 ra imm)

theorem rsl (ra : Reg) (imm : BitVec 9) : Statement (.rsl ra imm) :=
  of_one_word (row := ⟨"RSL", 0x7000, 0xFC00⟩) rfl rfl (by decide) rfl (encodeFM_masked 0b011100 ra imm)

theorem fct (ra : Reg) (imm : BitVec 9) : Statement (.fct ra imm) :=
  of_one_word (row := ⟨"FCT", 0x7400, 0xFC00⟩) rfl rfl (by decide) rfl (encodeFM_masked 0b011101 ra imm)

theorem mov (ra : Reg) (imm : BitVec 9) : Statement (.mov ra imm) :=
  of_one_word (row := ⟨"MOV", 0x7800, 0xFC00⟩) rfl rfl (by decide) rfl (encodeFM_masked 0b011110 ra imm)

theorem nop : Statement (.nop) :=
  of_one_word (row := ⟨"NOP", 0xFC00, 0xFFFF⟩) rfl rfl (by decide) rfl (encodeF0_masked 0b111111)

theorem jmp (ba : BitVec 10) : Statement (.jmp ba) := by
  intro w hw
  simp only [encode, List.mem_cons, List.not_mem_nil, or_false] at hw
  rcases hw with rfl | rfl
  · exact ⟨⟨"PSH", 0x1000, 0xFCFF⟩, by decide, by simp [Instr.expand, Instr.mnemonic], encodeFS_masked 0b000100 .pc⟩
  · exact ⟨⟨"BRA", 0x2800, 0xFC00⟩, by decide, by simp [Instr.expand, Instr.mnemonic], encodeFB_masked 0b001010 ba⟩

theorem ret : Statement .ret := by
  intro w hw
  simp only [encode, List.mem_singleton] at hw
  subst hw
  exact ⟨⟨"POP", 0x1400, 0xFCFF⟩, by decide, by simp [Instr.expand, Instr.mnemonic], encodeFS_masked 0b000101 .pc⟩

end Sys2Proof.Laws.TableRow
end

