-- ==== Sys2Proof/Laws/Step.lean ====
section
/-! SUPPORT. What a step that answers a next state has done. -/

namespace Sys2Proof.Machine

/-- A step that goes on has fetched a word, decoded it and executed the instruction. -/
theorem step_next_inv {s t : State} (h : step s = .next t) :
    ∃ w i, s.ir = some w ∧ decode w = .ok i ∧ exec i s = .next t := by
  unfold step at h
  split at h
  · cases h
  · rename_i w hw
    split at h
    · rename_i i hi
      exact ⟨w, i, hw, hi, h⟩
    · cases h
    · cases h

end Sys2Proof.Machine
end

