-- ==== Sys2Proof/Tests/Slice0.lean ====
section
/-! SUPPORT. The model's own tests: well-formedness, words written out from the spec's encodings, single
steps with the results of 95_test_vectors.md (computed there from the rules, not from this model), and a
witness for the hypotheses of every statement. -/

open Sys2Proof Sys2Proof.Machine

namespace Sys2Proof.Tests

/-! ## Well-formedness (30_encoding.md R70) -/

theorem test_wellFormed_machine : Instr.WellFormed (.add .x 0) := by decide
theorem test_illFormed_jmp : ¬ Instr.WellFormed (.jmp 7) := by decide
theorem test_illFormed_ret : ¬ Instr.WellFormed .ret := by decide

/-! ## Decoding: words written from the formats of 30_encoding.md R62 and the opcodes of R66 -/

theorem test_decode_transfer :
    decode 0b0000000000000000 = .ok .trx ∧ decode 0b0000010000000000 = .ok .try_ := by decide

theorem test_decode_load_store :
    decode 0b0000101111111111 = .ok (.ldr .y 511) ∧ decode 0b0000110000000000 = .ok (.str .x 0) := by decide

theorem test_decode_stack :
    decode 0b0001000000000000 = .ok (.psh .x) ∧ decode 0b0001000100000000 = .ok (.psh .y) ∧
    decode 0b0001001000000000 = .ok (.psh .acc) ∧ decode 0b0001001100000000 = .ok (.psh .pc) ∧
    decode 0b0001011100000000 = .ok (.pop .pc) := by decide

theorem test_decode_branch :
    decode 0b0001101111111111 = .ok (.brz 1023) ∧ decode 0b0001110000101010 = .ok (.brn 42) ∧
    decode 0b0010000101010101 = .ok (.brc 341) ∧ decode 0b0010010000000000 = .ok (.bro 0) ∧
    decode 0b0010101111111111 = .ok (.bra 1023) := by decide

theorem test_decode_arith :
    decode 0b0011010100000000 = .ok (.add .x 0x100) ∧ decode 0b0011101000000101 = .ok (.sub .y 5) ∧
    decode 0b0100011111111110 = .ok (.mul .y 0x1FE) ∧ decode 0b0100100000000111 = .ok (.div .x 7) ∧
    decode 0b0100111000000000 = .ok (.mod .y 0) := by decide

theorem test_decode_compare_unary :
    decode 0b0101001111111111 = .ok (.cmp .y 0x1FF) ∧ decode 0b0101010000000000 = .ok (.inc .x) ∧
    decode 0b0101101000000000 = .ok (.dec .y) ∧ decode 0b0110101000000000 = .ok (.not .y) := by decide

theorem test_decode_logic :
    decode 0b0101110000001111 = .ok (.and .x 15) ∧ decode 0b0110000000110100 = .ok (.or .x 52) ∧
    decode 0b0110011100000000 = .ok (.xor .y 0x100) := by decide

theorem test_decode_shift_rotate :
    decode 0b0011110111111111 = .ok (.lsr .x 0x1FF) ∧ decode 0b0100000000001000 = .ok (.lsl .x 8) ∧
    decode 0b0110111111111111 = .ok (.rsr .y 0x1FF) ∧ decode 0b0111000000000100 = .ok (.rsl .x 4) := by decide

theorem test_decode_fct_mov_nop :
    decode 0b0111010111111111 = .ok (.fct .x 511) ∧ decode 0b0111100111111101 = .ok (.mov .x 0x1FD) ∧
    decode 0b1111110000000000 = .ok .nop := by decide

theorem test_decode_illegal :
    decode 0x2C00 = .illegalOpcode ∧ decode 0x33FF = .illegalOpcode ∧ decode 0x7C00 = .illegalOpcode ∧
    decode 0xFBFF = .illegalOpcode := by decide

theorem test_decode_reserved :
    decode 0x0200 = .reservedEncoding ∧ decode 0x1080 = .reservedEncoding ∧
    decode 0x5700 = .reservedEncoding ∧ decode 0xFFFF = .reservedEncoding := by decide

/-- The pseudo-instructions' words (30_encoding.md R70): JMP 7 is 1300, 2807; RET is 1700. -/
theorem test_encode_pseudo : encode (.jmp 7) = [0x1300, 0x2807] ∧ encode .ret = [0x1700] := by decide

/-- A table entry as the host numbers it, and JMP's two words, first word in the high half. -/
theorem test_table_words :
    decodeTableWord 16 0x3A05 = some (.sub .y 5) ∧ decodeTableWord 32 0x13002840 = some (.psh .pc) ∧
    decodeTableWord 16 0x7C00 = none := by decide

/-! ## Single steps -/

/-- A state for a test. -/
def st (acc x y : Word) (f : BitVec 4) (pc : Word := 0) (sp : Word := 0x01FF) (dm : Memory := []) : State :=
  { State.reset with
    acc := acc
    x := x
    y := y
    pc := pc
    sp := sp
    dm := dm
    flags := { z := f.getLsbD 3, n := f.getLsbD 2, c := f.getLsbD 1, v := f.getLsbD 0 } }

/-- The registers as 95_test_vectors.md section 3 lists them: ACC, X, Y, ZNCV, PC, SP. -/
structure View where
  acc : Word
  x : Word
  y : Word
  f : BitVec 4
  pc : Word
  sp : Word
  deriving DecidableEq, Repr

/-- The registers after one step over the word `w`. -/
def after (w : Nat) (s : State) : Option View :=
  match step (s.withFetchWord 16 w) with
  | .next t => some ⟨t.acc, t.x, t.y, t.flags.toBits, t.pc, t.sp⟩
  | _ => none

/-- The data memory after one step over the word `w`. -/
def dmAfter (w : Nat) (s : State) : Option Memory :=
  match step (s.withFetchWord 16 w) with
  | .next t => some t.dm
  | _ => none

/-- The fault one step over the word `w` ends in. -/
def faultOf (w : Nat) (s : State) : Option Fault :=
  match step (s.withFetchWord 16 w) with
  | .fault f => some f
  | _ => none

/-- ACC, X, Y, Z, N after one step: what FCT defines. -/
def afterFct (w : Nat) (s : State) : Option (Word × Word × Word × Bool × Bool) :=
  match step (s.withFetchWord 16 w) with
  | .next t => some (t.acc, t.x, t.y, t.flags.z, t.flags.n)
  | _ => none

theorem test_trx : after 0x0000 (st 0x1234 0xAAAA 0x5555 0b1010) =
    some ⟨0x1234, 0x1234, 0x5555, 0b1010, 1, 0x1FF⟩ := by decide
theorem test_try : after 0x0400 (st 0x8000 0xAAAA 0x5555 0) =
    some ⟨0x8000, 0xAAAA, 0x8000, 0, 1, 0x1FF⟩ := by decide
theorem test_ldr : after 0x0B00 (st 0 1 2 0 0 0x1FF [(256, 0x0100)]) =
    some ⟨0, 1, 0x0100, 0, 1, 0x1FF⟩ := by decide
theorem test_ldr_unwritten : faultOf 0x0805 (st 0 1 2 0) = some .uninitialisedRead := by decide
theorem test_str : dmAfter 0x0FFF (st 0 1 0xFF 0) = some [(511, 0x00FF)] := by decide
theorem test_psh : after 0x1000 (st 3 0xAB 0x2222 0 0 0xFE00) = some ⟨3, 0xAB, 0x2222, 0, 1, 0xFDFF⟩ ∧
    dmAfter 0x1000 (st 3 0xAB 0x2222 0 0 0xFE00) = some [(0, 0x00AB)] := by decide
theorem test_psh_pc : dmAfter 0x1300 (st 3 0x1111 0x2222 0 0x41 0x1FF) = some [(511, 0x0041)] := by decide
theorem test_pop_empty : after 0x1400 (st 0 1 2 0 0 0x1FF [(0, 0x0BAD)]) =
    some ⟨0, 0x0BAD, 2, 0, 1, 0x200⟩ := by decide
theorem test_pop_pc : after 0x1700 (st 3 1 2 0 0x90 0x1FE [(511, 0x0041)]) =
    some ⟨3, 1, 2, 0, 0x0043, 0x1FF⟩ := by decide
theorem test_brz : (after 0x1955 (st 0 0 0 0b1000 0x20)).map View.pc = some 0x155 ∧
    (after 0x1955 (st 0 0 0 0b0111 0x20)).map View.pc = some 0x21 := by decide
theorem test_brn : (after 0x1D55 (st 0 0 0 0b0100 0x20)).map View.pc = some 0x155 ∧
    (after 0x1D55 (st 0 0 0 0b1011 0x20)).map View.pc = some 0x21 := by decide
theorem test_brc : (after 0x2155 (st 0 0 0 0b0010 0x20)).map View.pc = some 0x155 ∧
    (after 0x2155 (st 0 0 0 0b1101 0x20)).map View.pc = some 0x21 := by decide
theorem test_bro : (after 0x2555 (st 0 0 0 0b0001 0x20)).map View.pc = some 0x155 ∧
    (after 0x2555 (st 0 0 0 0b1110 0x20)).map View.pc = some 0x21 := by decide
theorem test_bra : (after 0x2BFF (st 0 0 0 0)).map View.pc = some 0x3FF := by decide
theorem test_branch_top : (after 0x1807 (st 0 0 0 0 0xFFFF)).map View.pc = some 0 := by decide
theorem test_add : after 0x3600 (st 0x8000 0 0x8000 0) =
    some ⟨0, 0, 0x8000, 0b1011, 1, 0x1FF⟩ := by decide
theorem test_add_imm : after 0x3500 (st 0xAAAA 0xFF 0x5555 0) =
    some ⟨0xAAAA, 0xFFFF, 0x5555, 0b0100, 1, 0x1FF⟩ := by decide
theorem test_sub : after 0x3800 (st 0x7FFF 0xFFFF 0 0) =
    some ⟨0x8000, 0xFFFF, 0, 0b0111, 1, 0x1FF⟩ := by decide
theorem test_sub_imm : after 0x3A01 (st 0xAAAA 0x5555 0 0) =
    some ⟨0xAAAA, 0x5555, 0xFFFF, 0b0110, 1, 0x1FF⟩ := by decide
theorem test_mul : after 0x4400 (st 0xB6 0xB6 0 0) = some ⟨0x8164, 0xB6, 0, 0b0101, 1, 0x1FF⟩ := by decide
theorem test_mul_imm : after 0x47FE (st 0xAAAA 0x5555 0x78 0) =
    some ⟨0xAAAA, 0x5555, 0xFF10, 0b0110, 1, 0x1FF⟩ := by decide
theorem test_div : after 0x4802 (st 0xAAAA 0xFFF9 0x5555 0) =
    some ⟨0xAAAA, 0x7FFC, 0x5555, 0, 1, 0x1FF⟩ := by decide
theorem test_div_zero : faultOf 0x4800 (st 0x64 0 5 0) = some .divideByZero := by decide
theorem test_mod : after 0x4C00 (st 0x8000 0xFFFF 0 0) =
    some ⟨0x8000, 0xFFFF, 0, 0b0100, 1, 0x1FF⟩ := by decide
theorem test_cmp : after 0x5200 (st 0x64 0x9999 0xFFFD 0) =
    some ⟨0x64, 0x9999, 0xFFFD, 0b0010, 1, 0x1FF⟩ := by decide
theorem test_cmp_imm : after 0x53FF (st 0xAAAA 0x5555 0x7FFF 0) =
    some ⟨0xAAAA, 0x5555, 0x7FFF, 0b0111, 1, 0x1FF⟩ := by decide
theorem test_inc : after 0x5400 (st 0xAAAA 0x7FFF 0x5555 0) =
    some ⟨0xAAAA, 0x8000, 0x5555, 0b0101, 1, 0x1FF⟩ := by decide
theorem test_dec : after 0x5A00 (st 0xAAAA 0x5555 0 0) =
    some ⟨0xAAAA, 0x5555, 0xFFFF, 0b0110, 1, 0x1FF⟩ := by decide
theorem test_lsr : after 0x3C00 (st 0x8000 1 0x9999 0b0011) =
    some ⟨0x4000, 1, 0x9999, 0, 1, 0x1FF⟩ := by decide
theorem test_lsr_large : after 0x3DFF (st 0xAAAA 0x8001 0x5555 0) =
    some ⟨0xAAAA, 0, 0x5555, 0b1000, 1, 0x1FF⟩ := by decide
theorem test_lsl : after 0x4000 (st 0xFFFF 0x10 0 0) = some ⟨0, 0x10, 0, 0b1000, 1, 0x1FF⟩ := by decide
theorem test_lsl_imm : after 0x4201 (st 0xAAAA 0x5555 0x4000 0) =
    some ⟨0xAAAA, 0x5555, 0x8000, 0b0100, 1, 0x1FF⟩ := by decide
theorem test_and : after 0x5F00 (st 0xAAAA 0x5555 0xFFFF 0) =
    some ⟨0xAAAA, 0x5555, 0xFF00, 0b0100, 1, 0x1FF⟩ := by decide
theorem test_or : after 0x6000 (st 0xFF00 0x34 0x9999 0) =
    some ⟨0xFF34, 0x34, 0x9999, 0b0100, 1, 0x1FF⟩ := by decide
theorem test_xor : after 0x6400 (st 0xFFFF 0xFFFF 0x9999 0b0111) =
    some ⟨0, 0xFFFF, 0x9999, 0b1000, 1, 0x1FF⟩ := by decide
theorem test_not : after 0x6800 (st 0xAAAA 0 0x5555 0b1011) =
    some ⟨0xAAAA, 0xFFFF, 0x5555, 0b0100, 1, 0x1FF⟩ := by decide
theorem test_rsr : after 0x6C00 (st 0x1234 0x14 0 0) = some ⟨0x4123, 0x14, 0, 0, 1, 0x1FF⟩ := by decide
theorem test_rsl : after 0x7004 (st 0xAAAA 0xFF34 0x5555 0) =
    some ⟨0xAAAA, 0xF34F, 0x5555, 0b0100, 1, 0x1FF⟩ := by decide
theorem test_fct : afterFct 0x7408 (st 0xAAAA 0x1111 0x5555 0b1100) =
    some (0xAAAA, 0x9D80, 0x5555, false, true) := by decide
theorem test_fct_zero : faultOf 0x7400 (st 0xAAAA 0x1111 0x5555 0) = some .factorialOfZero := by decide
theorem test_mov : after 0x7900 (st 0xAAAA 0x1111 0x5555 0b0110) =
    some ⟨0xAAAA, 0xFF00, 0x5555, 0b0110, 1, 0x1FF⟩ := by decide
theorem test_nop : after 0xFC00 (st 0xAAAA 0x1111 0x5555 0b1010) =
    some ⟨0xAAAA, 0x1111, 0x5555, 0b1010, 1, 0x1FF⟩ := by decide

/-- 95_test_vectors.md section 1: `JMP 0x040` at 0x0010 stores 0x0010 and goes to 0x0040; the later RET goes
to 0x0012. -/
theorem test_jmp : exec (.jmp 0x040) (st 0 0 0 0 0x10) =
    .next (st 0 0 0 0 0x40 0x1FE [(511, 0x0010)]) := by rfl
theorem test_ret : exec .ret (st 0 0 0 0 0x60 0x1FE [(511, 0x0010)]) =
    .next (st 0 0 0 0 0x12 0x1FF [(511, 0x0010)]) := by rfl

theorem test_fault_unloaded : step (st 0 0 0 0) = .fault .unloadedInstruction := by rfl
theorem test_fault_decode : faultOf 0xABCD (st 0 0 0 0) = some .illegalOpcode ∧
    faultOf 0x1301 (st 0 0 0 0) = some .reservedEncoding := by decide

/-! ## Witnesses: states and operands that meet the hypotheses of the statements -/

/-- A state with a program, from reset. -/
def prog (ws : List Word) : State := loadProgram ws State.reset

theorem test_witness_FirstInstructionAfterReset :
    imRead 0 (prog [0x7805]) = some 0x7805 ∧ decode 0x7805 = .ok (.mov .x 5) := by decide

theorem test_witness_LoadPlacesProgram :
    [(0x7805 : Word)].length ≤ 1024 ∧ (List.replicate 1024 (0xFC00 : Word)).length ≤ 1024 :=
  ⟨by decide, Nat.le_of_eq List.length_replicate⟩

theorem test_witness_FetchWordIsFetched : (0xFFFF : Nat) < 2 ^ 16 := by decide

/-- The fetch ignores the upper six bits of PC. -/
theorem test_witness_StepRunsTheDecodedInstruction :
    imRead (BitVec.ofNat 10 (((prog [0x7805]).setPc 0x0400).pc.toNat % 1024)) ((prog [0x7805]).setPc 0x0400) =
      some 0x7805 ∧ decode 0x7805 = .ok (.mov .x 5) ∧
    ((prog [0x7805]).setPc 0xFC00).pc.toNat % 1024 = (prog [0x7805]).pc.toNat % 1024 ∧
    ((prog [0x7805]).setPc 0xFC00).im = (prog [0x7805]).im := by decide

theorem test_witness_FetchAndDecodeFaults :
    imRead (pcIndex State.reset.pc) State.reset = none ∧
    (imRead (pcIndex (prog [0x2C00]).pc) (prog [0x2C00]) = some 0x2C00 ∧
      (0x2C00 : Word).toNat / 1024 = 11) ∧
    (imRead (pcIndex (prog [0x1301]).pc) (prog [0x1301]) = some 0x1301 ∧
      (0x1301 : Word).toNat / 1024 = 4 ∧ (0x1301 : Word).toNat % 256 ≠ 0) := by decide

/-- The last of the unassigned opcodes is one, and its neighbour NOP is not. -/
theorem test_witness_unassignedOpcode : unassignedOpcode 0xFBFF ∧ ¬ unassignedOpcode 0xFC00 := by
  unfold unassignedOpcode; decide

theorem test_witness_reservedBits : reservedBits 0xFC01 ∧ reservedBits 0x1301 ∧ reservedBits 0x5BFF ∧
    ¬ reservedBits 0x1300 := by
  unfold reservedBits; decide

theorem test_witness_OpcodeMapIsDecoded :
    ⟨"POP", 0x1400, 0xFCFF⟩ ∈ opcodeRows ∧ ⟨"NOP", 0xFC00, 0xFFFF⟩ ∈ opcodeRows := by decide

theorem test_witness_DecodeOfEncode : Instr.WellFormed (.psh .pc) := by decide
theorem test_witness_EncodeOfDecode : decode 0x1300 = .ok (.psh .pc) := by decide

theorem test_witness_LdrResult :
    dmRead 511 (st 0 0 0 0 0 0 [(511, 7)]) = some 7 ∧ dmRead 0 State.reset = none := by decide

/-- The empty stack's pop reads location 0. -/
theorem test_witness_PopResult :
    dmRead (BitVec.ofNat 9 (((0x01FF : Word).toNat + 1) % 512)) (st 0 0 0 0 0 0x01FF [(0, 7)]) = some 7 ∧
    dmRead (BitVec.ofNat 9 ((State.reset.sp.toNat + 1) % 512)) State.reset = none := by decide

theorem test_witness_PopReturnsWhatPshStored :
    ∃ t, exec (.psh .x) (st 0 5 0 0 0 0) = .next t ∧ t.sp = 0xFFFF ∧
      dmRead (pushAddr Config.stackOrder 0) t = some 5 :=
  ⟨_, rfl, by decide, by decide⟩

theorem test_witness_BraResult : (st 0 0 0 0 0x03FF).pc.toNat = (1023 : BitVec 10).toNat := by decide

/-- JMP over the top of the instruction memory: its first word at 1023, its second at 0. -/
theorem test_witness_PseudoInstructionsExpand :
    ((prog [0x2807]).setPc 0x03FF |> imPlace 1023 0x1300).ir = some 0x1300 ∧
    imRead (pcIndex (0x03FF + 1)) ((prog [0x2807]).setPc 0x03FF |> imPlace 1023 0x1300) =
      some (branchWord 0x2800 7) := by decide

theorem test_witness_RetReturnsAfterJmp :
    dmRead (BitVec.ofNat 9 (((0x01FE : Word).toNat + 1) % 512)) (st 0 0 0 0 0 0x01FE [(511, 0xFFFF)]) =
      some 0xFFFF ∧
    ∃ t, exec (.jmp 0x40) (st 0 0 0 0 0x10) = .next t ∧ t.sp = 0x01FE ∧ dmRead 511 t = some 0x0010 :=
  ⟨by decide, _, rfl, by decide, by decide⟩

/-- The operands of the two forms of the ALU instructions (AddResult, SubResult, MulResult, CmpResult,
LogicResults, ShiftResults, RotateResults): IMM = 0 and IMM = -1. -/
theorem test_witness_two_form_operands :
    (0xFFFF : Word) = leftOperand .y 0 (st 0xFFFF 2 1 0) ∧ (1 : Word) = rightOperand .y 0 (st 0xFFFF 2 1 0) ∧
    (2 : Word) = leftOperand .x 0x1FF (st 0xFFFF 2 1 0) ∧
    (0xFFFF : Word) = rightOperand .x 0x1FF (st 0xFFFF 2 1 0) ∧
    (0 : Word) = BitVec.ofNat 16 (((0xFFFF : Word).toNat + (1 : Word).toNat) % 65536) := by decide

theorem test_witness_AdditionCarryAndOverflow :
    (∃ t, exec (.add .y 0) (st 0x8000 0 0x8000 0) = .next t ∧ t.flags.c = true ∧ t.flags.v = true) ∧
    (∃ t, exec (.inc .x) (st 0 0x7FFF 0 0) = .next t ∧ t.flags.c = false ∧ t.flags.v = true) :=
  ⟨⟨_, rfl, by decide, by decide⟩, ⟨_, rfl, by decide, by decide⟩⟩

theorem test_witness_DivModResults :
    rightOperand .x 0x1FE (st 0 7 0 0) ≠ 0 ∧ rightOperand .x 0 (st 0x64 0 0 0) = 0 := by decide

theorem test_witness_DivisionReadingsAgree :
    (0x7FFF : Word).getLsbD 15 = false ∧ (2 : Word).getLsbD 15 = false ∧ (2 : Word) ≠ 0 := by decide

/-- Where bit 15 is set the two readings differ (92_eei_decisions.md D9: 0xFFF9 / 2). -/
theorem test_division_readings_differ :
    quotient false 0xFFF9 2 = 0x7FFC ∧ quotient true 0xFFF9 2 = 0xFFFD := by decide

theorem test_witness_CmpIsSubWithoutResult : ∃ t, exec (.sub .x 0) (st 3 5 0 0) = .next t := ⟨_, rfl⟩

theorem test_witness_IncDecResults :
    (0xFFFF : Word) = readReg .x (st 0 0xFFFF 0 0) ∧
    (0 : Word) = BitVec.ofNat 16 (((0xFFFF : Word).toNat + 1) % 65536) := by decide

/-- A count of exactly 16. -/
theorem test_witness_ShiftResults : (rightOperand .x 0 (st 0xFFFF 0x10 0 0)).toNat ≥ 16 := by decide

theorem test_witness_RotateLeftUndoesRotateRight :
    (0x1FF : BitVec 9) ≠ 0 ∧ ∃ t, exec (.rsr .y 0x1FF) (st 0 0 0x8001 0) = .next t := ⟨by decide, _, rfl⟩

theorem test_witness_FctResult :
    State.reset.fact.reg = 1 ∧ (1 : BitVec 9) ≠ 0 ∧ (511 : BitVec 9) ≠ 0 := by decide

theorem test_witness_FctTable :
    State.reset.fact.reg = 1 ∧ 18 ≤ (18 : BitVec 9).toNat ∧ 18 ≤ (511 : BitVec 9).toNat := by decide

theorem test_witness_FactorialUnitCycles :
    State.reset.fact.reg = 1 ∧ 510 < (511 : BitVec 9).toNat ∧ 0 < (1 : BitVec 9).toNat := by decide

theorem test_witness_FlagsWrittenAndReadAsListed :
    (∃ t, exec (.mov .x 0) (st 0 1 0 0b1111) = .next t ∧ isAlu (.mov .x 0) = false) ∧
    (∃ t u, exec (.add .x 0) ((st 1 1 0 0).setFlags ⟨true, true, true, true⟩) = .next t ∧
      exec (.add .x 0) ((st 1 1 0 0).setFlags ⟨false, false, false, false⟩) = .next u ∧
      isAlu (.add .x 0) = true) ∧
    testedFlag ⟨true, false, false, false⟩ (.brn 5) = testedFlag ⟨false, false, true, true⟩ (.brn 5) :=
  ⟨⟨_, rfl, rfl⟩, ⟨_, _, rfl, rfl, rfl⟩, rfl⟩

/-- Each clause: a branch taken and not taken, POP PC, RET, and an instruction that only advances PC. -/
theorem test_witness_PcAdvancesAsListed :
    (∃ t, exec (.bra 1023) (st 0 0 0 0) = .next t) ∧ (∃ t, exec (.brz 0) (st 0 0 0 0b1000) = .next t) ∧
    (∃ t, exec (.brn 0) (st 0 0 0 0) = .next t) ∧ (∃ t, exec (.brc 1) (st 0 0 0 0b0010) = .next t) ∧
    (∃ t, exec (.bro 1) (st 0 0 0 0) = .next t) ∧
    (∃ t, exec (.pop .pc) (st 0 0 0 0 0 0x1FE [(511, 0xFFFF)]) = .next t) ∧
    (∃ t, exec .ret (st 0 0 0 0 0 0x1FE [(511, 0xFFFF)]) = .next t) ∧
    (∃ t, exec .nop (st 0 0 0 0 0xFFFF) = .next t) :=
  ⟨⟨_, rfl⟩, ⟨_, rfl⟩, ⟨_, rfl⟩, ⟨_, rfl⟩, ⟨_, rfl⟩, ⟨_, rfl⟩, ⟨_, rfl⟩, ⟨_, rfl⟩⟩

theorem test_witness_StackPointerRules :
    (∃ t, exec (.psh .x) (st 0 0 0 0 0 0) = .next t) ∧
    (∃ t, exec (.pop .x) (st 0 0 0 0 0 0xFFFF [(0, 1)]) = .next t) ∧
    (0xFE00 : Word).toNat % 512 = (0 : Word).toNat % 512 ∧
    (∃ t u, exec .nop ((st 0 0 0 0).setSp 1) = .next t ∧ exec .nop ((st 0 0 0 0).setSp 2) = .next u ∧
      (∀ ss, (.nop : Instr) ≠ .psh ss) ∧ (∀ ss, (.nop : Instr) ≠ .pop ss) ∧ (∀ ba, (.nop : Instr) ≠ .jmp ba) ∧
      (.nop : Instr) ≠ .ret) :=
  ⟨⟨_, rfl⟩, ⟨_, rfl⟩, by decide, ⟨_, _, rfl, rfl, (fun _ h => by cases h), (fun _ h => by cases h), (fun _ h => by cases h), by decide⟩⟩

theorem test_witness_RegistersReadAndWrittenAsListed :
    (∃ t, exec (.add .x 1) (st 0 1 0 0) = .next t) ∧ writesAcc (.add .x 1) = false ∧
    writesReg .y (.add .x 1) = false ∧ writesReg .x (.add .x 0) = false ∧ readsAcc (.add .x 1) = false ∧
    readsReg .x (.fct .x 5) = false ∧ readsReg .y (.add .x 0) = false :=
  ⟨⟨_, rfl⟩, by decide⟩

theorem test_witness_DataMemoryHoldsTheLastStore :
    (∃ t, exec (.str .x 0) (st 0 5 0 0) = .next t ∧ storeOf (.str .x 0) (st 0 5 0 0) = some (0, 5)) ∧
    (∃ t, exec (.mov .x 0) (st 0 5 0 0) = .next t ∧ storeOf (.mov .x 0) (st 0 5 0 0) = none) :=
  ⟨⟨_, rfl, rfl⟩, ⟨_, rfl, rfl⟩⟩

theorem test_witness_InstructionMemoryIsReadOnly :
    (∃ t, exec (.str .x 0) (prog [0x0C00]) = .next t) ∧
    (∃ t, Host.Core.run core 1 (prog [0x0C00]) = .next t) := ⟨⟨_, rfl⟩, ⟨_, rfl⟩⟩

/-- Each signal is 1 for some instruction. -/
theorem test_witness_AtMostOneInputSignal :
    (control (.add .x 0) true ⟨false, false, false, false⟩).alu = true ∧
    (control (.mov .x 0) true ⟨false, false, false, false⟩).mov = true ∧
    (control (.ldr .x 0) true ⟨false, false, false, false⟩).load = true ∧
    (control .trx true ⟨false, false, false, false⟩).tr = true := by decide

theorem test_witness_ControlSignalsSelectTheWrites :
    (decode 0x0BFF = .ok (.ldr .y 511) ∧ (∃ t, exec (.ldr .y 511) (st 0 0 0 0 0 0 [(511, 7)]) = .next t) ∧
      (control (.ldr .y 511) true ⟨false, false, false, false⟩).load = true) ∧
    (decode 0x0C00 = .ok (.str .x 0) ∧ (∃ t, exec (.str .x 0) (st 0 5 0 0) = .next t) ∧
      (control (.str .x 0) true ⟨false, false, false, false⟩).store = true ∧
      (control (.str .x 0) true ⟨false, false, false, false⟩).flagSelect = false) :=
  ⟨⟨by decide, ⟨_, rfl⟩, by decide⟩, ⟨by decide, ⟨_, rfl⟩, by decide, by decide⟩⟩

theorem test_witness_StepKeepsInvariant :
    (prog [0x1000]).Inv ∧ ∃ t, step (prog [0x1000]) = .next t ∧ t.dm = [(511, 0)] :=
  ⟨by unfold State.Inv; decide, _, rfl, rfl⟩

/-- A branch to itself at 0, and at the last location. -/
theorem test_witness_EndOfRunIsAFixedPoint :
    atEnd (prog [0x2800]) = true ∧ atEnd ((imPlace 1023 0x2BFF State.reset).setPc 1023) = true ∧
    atEnd (prog [0x2801]) = false := by decide

/-- A run that completes and a run that faults. -/
theorem test_witness_RunHasOneEnd :
    Completes (prog [0xFC00, 0x2801]) ((prog [0xFC00, 0x2801]).setPc 1) ∧
    FaultsWith (prog [0xFC00]) .unloadedInstruction :=
  ⟨⟨1, rfl, by decide⟩, ⟨2, rfl⟩⟩

end Sys2Proof.Tests
end

section
/-! The bits of the two extensions of 00_scope.md R4. -/

namespace Sys2Proof.Machine

theorem getLsbD_sextImm (imm : BitVec 9) {k : Nat} (hk : k < 16) :
    (sextImm imm).getLsbD k = if k < 9 then imm.getLsbD k else imm.getLsbD 8 := by
  rw [sextImm, BitVec.getLsbD_signExtend, decide_eq_true hk, Bool.true_and, BitVec.msb_eq_getLsbD_last]

theorem getLsbD_zextBa (ba : BitVec 10) {k : Nat} (hk : k < 16) :
    (zextBa ba).getLsbD k = if k < 10 then ba.getLsbD k else false := by
  rw [zextBa, BitVec.getLsbD_setWidth, decide_eq_true hk, Bool.true_and]
  split
  case isTrue => rfl
  case isFalse h => exact BitVec.getLsbD_of_ge ba k (Nat.le_of_not_lt h)

/-- Settles O15, from the bits of each extension. -/
theorem extensionsOfImmAndBa : Obligations.ExtensionsOfImmAndBa :=
  ⟨fun imm _ hk => getLsbD_sextImm imm hk, fun ba _ hk => getLsbD_zextBa ba hk⟩

end Sys2Proof.Machine
end

section
/-! What an instruction leaves alone: a part of the state that no write of the instruction's kind touches, by the
"written by" columns of 10_state.md R12 and by R21, is after it as it was before. -/

namespace Sys2Proof.Machine

/-- `p`, a part of the state, lies outside what `i` may write: PC, SP, the data memory, the factorial unit and
the count of draws, and each of ACC, X, Y (R12) and FLAGS (R21) that the tables list as written by `i`. -/
structure OutsideWrites {α : Type} (p : State → α) (i : Instr) : Prop where
  setPc : ∀ v s, p (s.setPc v) = p s
  setSp : ∀ v s, p (s.setSp v) = p s
  setDm : ∀ m s, p (s.setDm m) = p s
  setFact : ∀ u s, p (s.setFact u) = p s
  setDraws : ∀ k s, p (s.setDraws k) = p s
  setAcc : writesAcc i = true → ∀ v s, p (s.setAcc v) = p s
  writeReg : ∀ r, writesReg r i = true → ∀ v s, p (writeReg r v s) = p s
  setFlags : isAlu i = true → ∀ f s, p (s.setFlags f) = p s

/-- The accumulator form writes ACC. -/
theorem writesAcc_of_twoForm_zero {i : Instr} {ra : Reg} (h : twoFormFields i = some (ra, 0)) :
    writesAcc i = true := by
  simp [writesAcc, isAluAcc, h]

/-- The immediate form writes R(RA). -/
theorem writesReg_of_twoForm_imm {i : Instr} {ra : Reg} {imm : BitVec 9} (h : twoFormFields i = some (ra, imm))
    (himm : imm ≠ 0) : writesReg ra i = true := by
  have hform : isAluImmOn ra i = true := by simpa [isAluImmOn, isTwoFormOn, isAluAcc, h] using himm
  simp [writesReg, hform]

theorem isAlu_of_twoForm {i : Instr} {q : Reg × BitVec 9} (h : twoFormFields i = some q) : isAlu i = true := by
  cases i with
  | add | sub | lsr | lsl | mul | div | mod | and | or | xor | rsr | rsl => rfl
  | _ => cases h

namespace OutsideWrites

section
variable {α : Type} {p : State → α} {i : Instr} (hp : OutsideWrites p i) {ra : Reg} {imm : BitVec 9} {s t : State}
include hp

theorem nextPc (s : State) : p (nextPc s) = p s := hp.setPc _ s

theorem branchIf (cond : Bool) (ba : BitVec 10) (s : State) : p (branchIf cond ba s) = p s := by
  cases cond
  · exact hp.nextPc s
  · exact hp.setPc _ s

theorem pushWord (o : Config.StackOrder) (v : Word) (s : State) : p (pushWord o v s) = p s :=
  (hp.setSp _ _).trans (hp.setDm _ s)

theorem writeBack {d : Dest} (halu : isAlu i = true) (hacc : d = .acc → writesAcc i = true)
    (hreg : ∀ r, d = .reg r → writesReg r i = true) (o : AluOut) (s : State) : p (writeBack d o s) = p s := by
  have hdest : p (writeDest d o.res s) = p s := by
    cases d with
    | acc => exact hp.setAcc (hacc rfl) _ s
    | reg r => exact hp.writeReg r (hreg r rfl) _ s
    | none => rfl
  calc p (Machine.writeBack d o s)
      = p ((writeDest d o.res s).setFlags o.flags) := hp.nextPc _
    _ = p (writeDest d o.res s) := hp.setFlags halu _ _
    _ = p s := hdest

theorem writeBack_reg (halu : isAlu i = true) (hreg : writesReg ra i = true) (o : AluOut) (s : State) :
    p (Machine.writeBack (.reg ra) o s) = p s :=
  hp.writeBack halu (fun h => by cases h) (fun _ h => by cases h; exact hreg) o s

theorem aluTwoForm {op : Word → Word → AluOut} (hi : twoFormFields i = some (ra, imm))
    (h : aluTwoForm op ra imm s = .next t) : p t = p s := by
  rw [aluTwoForm_eq] at h
  cases h
  have halu := isAlu_of_twoForm hi
  by_cases himm : imm = 0
  · subst himm
    exact hp.writeBack halu (fun _ => writesAcc_of_twoForm_zero hi) (fun _ h => by cases h) _ s
  · rw [twoForm_imm himm]
    exact hp.writeBack_reg halu (writesReg_of_twoForm_imm hi himm) _ s

theorem aluDivision {op : Word → Word → AluOut} (hi : twoFormFields i = some (ra, imm))
    (h : aluDivision op ra imm s = .next t) : p t = p s := by
  by_cases h0 : (twoForm ra imm s).right = 0
  · rw [aluDivision_of_zero h0] at h
    cases h
  · rw [aluDivision_of_ne_zero h0] at h
    exact hp.aluTwoForm hi h

theorem aluUnary {op : Word → AluOut} (halu : isAlu i = true) (hreg : writesReg ra i = true)
    (h : aluUnary op ra s = .next t) : p t = p s := by
  cases h
  exact hp.writeBack_reg halu hreg _ s

end

theorem writePopped {α : Type} {p : State → α} {ss : StackReg} (hp : OutsideWrites p (.pop ss)) (v : Word)
    (s : State) : p (writePopped ss v s) = p s := by
  cases ss with
  | x => exact (hp.nextPc _).trans (hp.writeReg .x rfl v s)
  | y => exact (hp.nextPc _).trans (hp.writeReg .y rfl v s)
  | acc => exact (hp.nextPc _).trans (hp.setAcc rfl v s)
  | pc => exact hp.setPc _ s

/-- R12 and R21, the "written by" half: an instruction that goes on leaves alone what it is not listed to write. -/
theorem exec_next {α : Type} {p : State → α} {i : Instr} (hp : OutsideWrites p i) {s t : State}
    (h : exec i s = .next t) : p t = p s := by
  cases i with
  | trx => cases h; exact (hp.nextPc _).trans (hp.writeReg .x rfl _ s)
  | try_ => cases h; exact (hp.nextPc _).trans (hp.writeReg .y rfl _ s)
  | mov ra imm => cases h; exact (hp.nextPc _).trans (hp.writeReg ra (by simp [writesReg]) _ s)
  | nop => cases h; exact hp.nextPc s
  | ldr ra imm =>
    obtain ⟨v, -, rfl⟩ := withLoaded_eq_next.mp h
    exact (hp.nextPc _).trans (hp.writeReg ra (by simp [writesReg]) v s)
  | str ra imm => cases h; exact (hp.nextPc _).trans (hp.setDm _ s)
  | psh ss => cases h; exact (hp.nextPc _).trans (hp.pushWord _ _ s)
  | pop ss =>
    obtain ⟨v, -, rfl⟩ := popWord_eq_next.mp h
    exact (hp.writePopped v _).trans (hp.setSp _ s)
  | ret =>
    obtain ⟨v, -, rfl⟩ := popWord_eq_next.mp h
    exact (hp.setPc _ _).trans (hp.setSp _ s)
  | jmp ba => cases h; exact (hp.branchIf true ba _).trans ((hp.nextPc _).trans (hp.pushWord _ _ s))
  | brz ba | brn ba | brc ba | bro ba | bra ba => cases h; exact hp.branchIf _ ba s
  | add ra imm | sub ra imm | mul ra imm | lsr ra imm | lsl ra imm | and ra imm | or ra imm | xor ra imm
  | rsr ra imm | rsl ra imm => exact hp.aluTwoForm rfl h
  | div ra imm | mod ra imm => exact hp.aluDivision rfl h
  | cmp ra imm => cases h; exact hp.writeBack rfl (fun h => by cases h) (fun _ h => by cases h) _ s
  | inc ra => exact hp.aluUnary (op := (aluAdd · 1)) rfl (by simp [writesReg]) h
  | dec ra => exact hp.aluUnary (op := (aluSub · 1)) rfl (by simp [writesReg]) h
  | not ra => exact hp.aluUnary (op := aluNot) rfl (by simp [writesReg]) h
  | fct ra imm =>
    by_cases himm : imm = 0
    · subst himm
      cases (execFct_zero ra s).symm.trans h
    · cases (execFct_of_ne_zero himm).symm.trans h
      have hback := fun o => hp.writeBack_reg (ra := ra) rfl (by simp [writesReg]) o s
      exact (hp.setDraws _ _).trans ((hp.setFact _ _).trans (hback _))

end OutsideWrites

/-- ACC lies outside the writes of an instruction that R12 does not list as writing it. -/
theorem outsideWrites_acc {i : Instr} (h : writesAcc i = false) : OutsideWrites State.acc i where
  setPc _ _ := rfl
  setSp _ _ := rfl
  setDm _ _ := rfl
  setFact _ _ := rfl
  setDraws _ _ := rfl
  setAcc hw := absurd (h.symm.trans hw) Bool.false_ne_true
  writeReg r _ v s := writeReg_acc r v s
  setFlags _ _ _ := rfl

/-- X or Y lies outside the writes of an instruction that R12 does not list as writing it. -/
theorem outsideWrites_reg {r : Reg} {i : Instr} (h : writesReg r i = false) : OutsideWrites (readReg r) i where
  setPc _ _ := rfl
  setSp _ _ := rfl
  setDm _ _ := rfl
  setFact _ _ := rfl
  setDraws _ _ := rfl
  setAcc _ _ _ := rfl
  writeReg r' hw v s :=
    have hne : r ≠ r' := fun e => Bool.false_ne_true (h.symm.trans (e ▸ hw))
    readReg_writeReg_other hne v s
  setFlags _ _ _ := rfl

/-- FLAGS lies outside the writes of an instruction that is not one of the 17 of R21. -/
theorem outsideWrites_flags {i : Instr} (h : isAlu i = false) : OutsideWrites State.flags i where
  setPc _ _ := rfl
  setSp _ _ := rfl
  setDm _ _ := rfl
  setFact _ _ := rfl
  setDraws _ _ := rfl
  setAcc _ _ _ := rfl
  writeReg r _ v s := writeReg_flags r v s
  setFlags hw := absurd (h.symm.trans hw) Bool.false_ne_true

end Sys2Proof.Machine
end

section
/-! What an instruction depends on: two states that agree on what it reads, by the "read by" columns of
10_state.md R12 and by R21, and that look the same through a mask have outcomes that look the same through it.
A mask overwrites one register, so that its value is left out of account. -/

namespace Sys2Proof.Machine

/-- Two states that look the same through `m` still do after the same write to both. -/
structure RespectsWrites (m : State → State) : Prop where
  setAcc : ∀ v {s t}, m s = m t → m (s.setAcc v) = m (t.setAcc v)
  setX : ∀ v {s t}, m s = m t → m (s.setX v) = m (t.setX v)
  setY : ∀ v {s t}, m s = m t → m (s.setY v) = m (t.setY v)
  setPc : ∀ v {s t}, m s = m t → m (s.setPc v) = m (t.setPc v)
  setSp : ∀ v {s t}, m s = m t → m (s.setSp v) = m (t.setSp v)
  setFlags : ∀ f {s t}, m s = m t → m (s.setFlags f) = m (t.setFlags f)
  setDm : ∀ d {s t}, m s = m t → m (s.setDm d) = m (t.setDm d)
  setFact : ∀ u {s t}, m s = m t → m (s.setFact u) = m (t.setFact u)
  setDraws : ∀ k {s t}, m s = m t → m (s.setDraws k) = m (t.setDraws k)

/-- `s` and `t` agree on what `i` may read: PC, SP, the data memory, the factorial unit and the count of draws,
and each of ACC, X, Y (R12) and the flags (R21) that the tables list as read by `i`. -/
structure SameReads (i : Instr) (s t : State) : Prop where
  pc : s.pc = t.pc
  sp : s.sp = t.sp
  dm : s.dm = t.dm
  fact : s.fact = t.fact
  draws : s.draws = t.draws
  acc : readsAcc i = true → s.acc = t.acc
  reg : ∀ r, readsReg r i = true → readReg r s = readReg r t
  flag : testedFlag s.flags i = testedFlag t.flags i

namespace RespectsWrites

variable {m : State → State} (hm : RespectsWrites m) {s t : State}
include hm

theorem writeReg (r : Reg) (v : Word) (h : m s = m t) : m (writeReg r v s) = m (writeReg r v t) := by
  cases r with
  | x => exact hm.setX v h
  | y => exact hm.setY v h

theorem nextPc (hpc : s.pc = t.pc) (h : m s = m t) : m (nextPc s) = m (nextPc t) := by
  rw [Machine.nextPc, Machine.nextPc, hpc]
  exact hm.setPc _ h

theorem branchIf (cond : Bool) (ba : BitVec 10) (hpc : s.pc = t.pc) (h : m s = m t) :
    m (branchIf cond ba s) = m (branchIf cond ba t) := by
  cases cond
  · exact hm.nextPc hpc h
  · exact hm.setPc _ h

theorem pushWord (o : Config.StackOrder) (v : Word) (hsp : s.sp = t.sp) (hdm : s.dm = t.dm) (h : m s = m t) :
    m (pushWord o v s) = m (pushWord o v t) := by
  simp only [Machine.pushWord, dmWrite, hsp, hdm]
  exact hm.setSp _ (hm.setDm _ h)

theorem writePopped (ss : StackReg) (v : Word) (hpc : s.pc = t.pc) (h : m s = m t) :
    m (writePopped ss v s) = m (writePopped ss v t) := by
  cases ss with
  | x => exact hm.nextPc hpc (hm.setX v h)
  | y => exact hm.nextPc hpc (hm.setY v h)
  | acc => exact hm.nextPc hpc (hm.setAcc v h)
  | pc => exact hm.setPc _ h

theorem writeBack (d : Dest) (o : AluOut) (hpc : s.pc = t.pc) (h : m s = m t) :
    m (writeBack d o s) = m (writeBack d o t) := by
  have hdest : m (writeDest d o.res s) = m (writeDest d o.res t) := by
    cases d with
    | acc => exact hm.setAcc _ h
    | reg r => exact hm.writeReg r _ h
    | none => exact h
  exact hm.nextPc (by simpa using hpc) (hm.setFlags _ hdest)

end RespectsWrites

/-! ## The operations that can stop, and the classes of ALU instruction -/

section
variable {m : State → State} {s t : State} {ra : Reg} {imm : BitVec 9}

theorem Result.map_id (r : Result) : Result.map id r = r := by
  cases r <;> rfl

theorem map_next_congr (h : m s = m t) : Result.map m (.next s) = Result.map m (.next t) :=
  congrArg Host.Outcome.next h

theorem map_withLoaded_congr {a : BitVec 9} {k l : Word → State} (hdm : s.dm = t.dm)
    (hk : ∀ v, m (k v) = m (l v)) : Result.map m (withLoaded a s k) = Result.map m (withLoaded a t l) := by
  cases hs : dmRead a s with
  | none => rw [withLoaded_of_none hs, withLoaded_of_none ((dmRead_congr hdm.symm).trans hs)]
  | some v =>
    rw [withLoaded_of_some hs, withLoaded_of_some ((dmRead_congr hdm.symm).trans hs)]
    exact map_next_congr (hk v)

theorem map_popWord_writePopped_congr (hm : RespectsWrites m) (o : Config.StackOrder) (ss : StackReg)
    (hpc : s.pc = t.pc) (hsp : s.sp = t.sp) (hdm : s.dm = t.dm) (h : m s = m t) :
    Result.map m (popWord o s (writePopped ss)) = Result.map m (popWord o t (writePopped ss)) := by
  simp only [popWord, hsp]
  exact map_withLoaded_congr hdm fun v => hm.writePopped ss v hpc (hm.setSp _ h)

/-- The operands of the two forms depend on R(RA) and, in the accumulator form, on ACC. -/
theorem twoForm_congr (hreg : readReg ra s = readReg ra t) (hacc : imm = 0 → s.acc = t.acc) :
    twoForm ra imm s = twoForm ra imm t := by
  by_cases himm : imm = 0
  · subst himm
    rw [twoForm_zero, twoForm_zero, hreg, hacc rfl]
  · rw [twoForm_imm himm, twoForm_imm himm, hreg]

variable (hw : ∀ d o, m (writeBack d o s) = m (writeBack d o t))
include hw

theorem map_aluTwoForm_congr (op : Word → Word → AluOut) (h : twoForm ra imm s = twoForm ra imm t) :
    Result.map m (aluTwoForm op ra imm s) = Result.map m (aluTwoForm op ra imm t) := by
  rw [aluTwoForm_eq, aluTwoForm_eq, h]
  exact map_next_congr (hw _ _)

theorem map_aluDivision_congr (op : Word → Word → AluOut) (h : twoForm ra imm s = twoForm ra imm t) :
    Result.map m (aluDivision op ra imm s) = Result.map m (aluDivision op ra imm t) := by
  by_cases h0 : (twoForm ra imm t).right = 0
  · rw [aluDivision_of_zero h0, aluDivision_of_zero (by rw [h, h0])]
  · rw [aluDivision_of_ne_zero h0, aluDivision_of_ne_zero (by rwa [h])]
    exact map_aluTwoForm_congr hw op h

theorem map_aluCompare_congr (op : Word → Word → AluOut) (h : twoForm ra imm s = twoForm ra imm t) :
    Result.map m (aluCompare op ra imm s) = Result.map m (aluCompare op ra imm t) := by
  rw [aluCompare, aluCompare, h]
  exact map_next_congr (hw _ _)

theorem map_aluUnary_congr (op : Word → AluOut) (h : readReg ra s = readReg ra t) :
    Result.map m (aluUnary op ra s) = Result.map m (aluUnary op ra t) := by
  rw [aluUnary, aluUnary, h]
  exact map_next_congr (hw _ _)

theorem map_execFct_congr (hm : RespectsWrites m) (hfact : s.fact = t.fact) (hdraws : s.draws = t.draws) :
    Result.map m (execFct ra imm s) = Result.map m (execFct ra imm t) := by
  by_cases himm : imm = 0
  · rw [himm, execFct_zero, execFct_zero]
  · rw [execFct_of_ne_zero himm, execFct_of_ne_zero himm, hfact, hdraws]
    exact map_next_congr (hm.setDraws _ (hm.setFact _ (hw _ _)))

end

/-! ## Every instruction -/

theorem SameReads.twoForm {i : Instr} {s t : State} (hr : SameReads i s t) {ra : Reg} {imm : BitVec 9}
    (hi : twoFormFields i = some (ra, imm)) : twoForm ra imm s = twoForm ra imm t :=
  twoForm_congr (hr.reg ra (by simp [readsReg, isTwoFormOn, hi]))
    fun h0 => hr.acc (by simp [readsAcc, isAluAcc, hi, h0])

theorem SameReads.readStackReg {ss : StackReg} {s t : State} (hr : SameReads (.psh ss) s t) :
    readStackReg ss s = readStackReg ss t := by
  cases ss with
  | x => exact hr.reg .x rfl
  | y => exact hr.reg .y rfl
  | acc => exact hr.acc rfl
  | pc => exact hr.pc

/-- An ALU instruction depends on its operands alone, as far as its write-back looks the same through the mask. -/
theorem map_exec_congr_of_isAlu {m : State → State} (hm : RespectsWrites m) {i : Instr} {s t : State}
    (halu : isAlu i = true) (hr : SameReads i s t) (hw : ∀ d o, m (writeBack d o s) = m (writeBack d o t)) :
    Result.map m (exec i s) = Result.map m (exec i t) := by
  cases i with
  | add ra imm | sub ra imm | mul ra imm | lsr ra imm | lsl ra imm | and ra imm | or ra imm | xor ra imm
  | rsr ra imm | rsl ra imm => exact map_aluTwoForm_congr hw _ (hr.twoForm rfl)
  | div ra imm | mod ra imm => exact map_aluDivision_congr hw _ (hr.twoForm rfl)
  | cmp ra imm =>
    refine map_aluCompare_congr hw _ (twoForm_congr (hr.reg ra ?_) fun h0 => hr.acc ?_)
    · simp [readsReg]
    · simp [readsAcc, h0]
  | inc ra => exact map_aluUnary_congr hw (aluAdd · 1) (hr.reg ra (by simp [readsReg]))
  | dec ra => exact map_aluUnary_congr hw (aluSub · 1) (hr.reg ra (by simp [readsReg]))
  | not ra => exact map_aluUnary_congr hw aluNot (hr.reg ra (by simp [readsReg]))
  | fct ra imm => exact map_execFct_congr hw hm hr.fact hr.draws
  | _ => cases halu

/-- R12 and R21, the "read by" half: an instruction's outcome depends on nothing but what it is listed to read. -/
theorem map_exec_congr {m : State → State} (hm : RespectsWrites m) {i : Instr} {s t : State}
    (hr : SameReads i s t) (h : m s = m t) : Result.map m (exec i s) = Result.map m (exec i t) := by
  cases i with
  | trx =>
    have hx : m (s.setX s.acc) = m (t.setX t.acc) := hr.acc rfl ▸ hm.setX s.acc h
    exact map_next_congr (hm.nextPc hr.pc hx)
  | try_ =>
    have hy : m (s.setY s.acc) = m (t.setY t.acc) := hr.acc rfl ▸ hm.setY s.acc h
    exact map_next_congr (hm.nextPc hr.pc hy)
  | mov ra imm => exact map_next_congr (hm.nextPc (by simpa using hr.pc) (hm.writeReg ra _ h))
  | nop => exact map_next_congr (hm.nextPc hr.pc h)
  | ldr ra imm =>
    exact map_withLoaded_congr hr.dm fun v => hm.nextPc (by simpa using hr.pc) (hm.writeReg ra v h)
  | str ra imm =>
    have hdm : m (dmWrite imm (readReg ra s) s) = m (dmWrite imm (readReg ra t) t) := by
      rw [dmWrite, dmWrite, hr.reg ra (by simp [readsReg]), hr.dm]
      exact hm.setDm _ h
    exact map_next_congr (hm.nextPc hr.pc hdm)
  | psh ss =>
    have hpush := hm.pushWord Config.stackOrder (readStackReg ss s) hr.sp hr.dm h
    exact map_next_congr (hm.nextPc hr.pc (hr.readStackReg ▸ hpush))
  | jmp ba =>
    have hpush := hm.pushWord Config.stackOrder s.pc hr.sp hr.dm h
    exact map_next_congr (hm.setPc _ (hm.nextPc hr.pc (hr.pc ▸ hpush)))
  | pop ss => exact map_popWord_writePopped_congr hm _ ss hr.pc hr.sp hr.dm h
  | ret => exact map_popWord_writePopped_congr hm _ .pc hr.pc hr.sp hr.dm h
  | bra ba => exact map_next_congr (hm.branchIf true ba hr.pc h)
  | brz ba | brn ba | brc ba | bro ba =>
    exact map_next_congr (Option.some.inj hr.flag ▸ hm.branchIf _ ba hr.pc h)
  | _ => exact map_exec_congr_of_isAlu hm rfl hr fun d o => hm.writeBack d o hr.pc h

/-! ## The masks -/

/-- `s` with each of ACC, X, Y and FLAGS overwritten for which a value is given. `State.setAcc w` is the mask
that gives ACC alone, and so on; the identity is the mask that gives none. -/
def mask (acc x y : Option Word) (flags : Option Flags) (s : State) : State :=
  { s with acc := acc.getD s.acc, x := x.getD s.x, y := y.getD s.y, flags := flags.getD s.flags }

/-- A write to a register the mask overwrites is lost under it, every other write commutes with it. -/
theorem respectsWrites_mask (acc x y : Option Word) (flags : Option Flags) :
    RespectsWrites (mask acc x y flags) where
  setAcc v _ _ h := match acc with
    | some _ => h
    | none => congrArg (State.setAcc v) h
  setX v _ _ h := match x with
    | some _ => h
    | none => congrArg (State.setX v) h
  setY v _ _ h := match y with
    | some _ => h
    | none => congrArg (State.setY v) h
  setFlags f _ _ h := match flags with
    | some _ => h
    | none => congrArg (State.setFlags f) h
  setPc v _ _ h := congrArg (State.setPc v) h
  setSp v _ _ h := congrArg (State.setSp v) h
  setDm d _ _ h := congrArg (State.setDm d) h
  setFact u _ _ h := congrArg (State.setFact u) h
  setDraws k _ _ h := congrArg (State.setDraws k) h

theorem respectsWrites_id : RespectsWrites id := respectsWrites_mask none none none none

theorem respectsWrites_setAcc (w : Word) : RespectsWrites (State.setAcc w) :=
  respectsWrites_mask (some w) none none none

theorem respectsWrites_setX (w : Word) : RespectsWrites (State.setX w) :=
  respectsWrites_mask none (some w) none none

theorem respectsWrites_setY (w : Word) : RespectsWrites (State.setY w) :=
  respectsWrites_mask none none (some w) none

theorem respectsWrites_setFlags (f : Flags) : RespectsWrites (State.setFlags f) :=
  respectsWrites_mask none none none (some f)

end Sys2Proof.Machine
end

section
/-! The tables of 10_state.md R12 and R21, reset's flags (R22) and the fetch (R14). -/

namespace Sys2Proof.Machine

/-! ## FLAGS -/

theorem sameReads_setFlags {i : Instr} {f g : Flags} (h : testedFlag f i = testedFlag g i) (s : State) :
    SameReads i (s.setFlags f) (s.setFlags g) :=
  ⟨rfl, rfl, rfl, rfl, rfl, fun _ => rfl, fun _ _ => rfl, h⟩

theorem testedFlag_of_isAlu {i : Instr} (h : isAlu i = true) (f : Flags) : testedFlag f i = none := by
  cases i with
  | brz | brn | brc | bro => cases h
  | _ => rfl

/-- A write-back overwrites FLAGS whole. -/
theorem writeBack_setFlags (d : Dest) (o : AluOut) (f : Flags) (s : State) :
    writeBack d o (s.setFlags f) = writeBack d o s := by
  cases d with
  | acc => rfl
  | reg r => cases r <;> rfl
  | none => rfl

/-- An ALU instruction does the same whatever FLAGS holds. -/
theorem exec_setFlags_of_isAlu {i : Instr} (h : isAlu i = true) (f g : Flags) (s : State) :
    exec i (s.setFlags f) = exec i (s.setFlags g) := by
  have hflag : testedFlag f i = testedFlag g i := by rw [testedFlag_of_isAlu h, testedFlag_of_isAlu h]
  have hw (d : Dest) (o : AluOut) : writeBack d o (s.setFlags f) = writeBack d o (s.setFlags g) := by
    rw [writeBack_setFlags, writeBack_setFlags]
  simpa only [Result.map_id] using map_exec_congr_of_isAlu respectsWrites_id h (sameReads_setFlags hflag s) hw

/-- Settles O47: FLAGS lies outside the writes of the other instructions, the 17 do the same whatever it holds,
and an outcome seen through a mask of FLAGS depends on the tested flag alone. -/
theorem flagsWrittenAndReadAsListed : Obligations.FlagsWrittenAndReadAsListed := by
  refine ⟨fun i s t h hi => (outsideWrites_flags hi).exec_next h, fun i s t u f g hi ht hu => ?_,
    fun i s f g h hfg => map_exec_congr (respectsWrites_setFlags h) (sameReads_setFlags hfg s) rfl⟩
  cases ht.symm.trans ((exec_setFlags_of_isAlu hi f g s).trans hu)
  rfl

/-! ## ACC, X, Y -/

theorem sameReads_setAcc {i : Instr} (h : readsAcc i = false) (v : Word) (s : State) :
    SameReads i (s.setAcc v) s :=
  ⟨rfl, rfl, rfl, rfl, rfl, fun hr => absurd (h.symm.trans hr) Bool.false_ne_true, fun _ _ => rfl, rfl⟩

theorem sameReads_writeReg {r : Reg} {i : Instr} (h : readsReg r i = false) (v : Word) (s : State) :
    SameReads i (writeReg r v s) s where
  pc := writeReg_pc r v s
  sp := writeReg_sp r v s
  dm := writeReg_dm r v s
  fact := writeReg_fact r v s
  draws := writeReg_draws r v s
  acc _ := writeReg_acc r v s
  reg r' hr :=
    have hne : r' ≠ r := fun e => Bool.false_ne_true (h.symm.trans (e ▸ hr))
    readReg_writeReg_other hne v s
  flag := by rw [writeReg_flags]

/-- Settles O50: each register lies outside the writes of the instructions not listed as writing it, and an
outcome seen through a mask of it does not depend on it where it is not listed as read. -/
theorem registersReadAndWrittenAsListed : Obligations.RegistersReadAndWrittenAsListed := by
  refine ⟨fun i s t h => ⟨fun hw => ?_, fun hw => ?_, fun hw => ?_⟩,
    fun i s v w => ⟨fun hr => ?_, fun hr => ?_, fun hr => ?_⟩⟩
  · exact (outsideWrites_acc hw).exec_next h
  · exact (outsideWrites_reg hw).exec_next h
  · exact (outsideWrites_reg hw).exec_next h
  · exact map_exec_congr (respectsWrites_setAcc w) (sameReads_setAcc hr v s) rfl
  · exact map_exec_congr (respectsWrites_setX w) (sameReads_writeReg hr v s) rfl
  · exact map_exec_congr (respectsWrites_setY w) (sameReads_writeReg hr v s) rfl

/-! ## Reset and fetch -/

/-- Settles O1: reset writes all four flags and keeps the instruction memory only. -/
theorem resetClearsFlags : Obligations.ResetClearsFlags :=
  ⟨rfl, fun _ => ⟨rfl, rfl, rfl, rfl⟩⟩

/-- PC[9:0] is PC modulo 1024. -/
theorem pcIndex_eq_ofNat_mod (pc : Word) : pcIndex pc = BitVec.ofNat 10 (pc.toNat % 1024) :=
  BitVec.eq_of_toNat_eq (by simp [pcIndex])

theorem step_of_decode {s : State} {w : Word} {i : Instr} (hir : s.ir = some w) (hi : decode w = .ok i) :
    step s = exec i s := by
  simp [step, hir, hi]

/-- Settles O7: the fetch reads at PC modulo 1024, and a step that decodes its word is that instruction. -/
theorem stepRunsTheDecodedInstruction : Obligations.StepRunsTheDecodedInstruction := by
  refine ⟨fun s w i hw hi => step_of_decode ?_ hi, fun s t hpc him => ?_⟩
  · rwa [State.ir, pcIndex_eq_ofNat_mod]
  · rw [State.ir, State.ir, pcIndex_eq_ofNat_mod, pcIndex_eq_ofNat_mod, hpc]
    exact imRead_congr him

end Sys2Proof.Machine
end

section
/-! What a run keeps, and that the instruction memory is among what every run keeps (20_memory.md R52). -/

namespace Sys2Proof.Machine

/-! ## Runs -/

section
variable {M : Host.Core} {k : Nat} {s t : M.State}

/-- A run of one step more goes on exactly when its first step does and then the run from there. -/
theorem run_succ_eq_next :
    M.run (k + 1) s = .next t ↔ ∃ u, M.step s = .next u ∧ M.run k u = .next t := by
  rw [Host.Core.run]
  cases M.step s <;> simp

/-- What every step keeps, every run keeps. -/
theorem run_keeps {P : M.State → Prop} (hstep : ∀ s t, P s → M.step s = .next t → P t)
    (hs : P s) (h : M.run k s = .next t) : P t := by
  induction k generalizing s with
  | zero => cases h; exact hs
  | succ k ih =>
    obtain ⟨u, hu, ht⟩ := run_succ_eq_next.mp h
    exact ih (hstep s u hs hu) ht

end

/-! ## The instruction memory -/

/-- The instruction memory lies outside the writes of every instruction. -/
theorem outsideWrites_im (i : Instr) : OutsideWrites State.im i where
  setPc _ _ := rfl
  setSp _ _ := rfl
  setDm _ _ := rfl
  setFact _ _ := rfl
  setDraws _ _ := rfl
  setAcc _ _ _ := rfl
  writeReg r _ v s := writeReg_im r v s
  setFlags _ _ _ := rfl

theorem step_im {s t : State} (h : step s = .next t) : t.im = s.im := by
  obtain ⟨_, i, -, -, hexec⟩ := step_next_inv h
  exact (outsideWrites_im i).exec_next hexec

theorem run_im {k : Nat} {s t : State} (h : Host.Core.run core k s = .next t) : t.im = s.im :=
  run_keeps (M := core) (P := fun u => u.im = s.im) (fun _ _ hu hstep => (step_im hstep).trans hu) rfl h

/-- Settles O52: the instruction memory lies outside every instruction's writes, so every run keeps it. -/
theorem instructionMemoryIsReadOnly : Obligations.InstructionMemoryIsReadOnly :=
  ⟨fun i _ _ h _ => imRead_congr ((outsideWrites_im i).exec_next h), fun _ _ _ h _ => imRead_congr (run_im h)⟩

end Sys2Proof.Machine
end

section
/-! The fields of a word (30_encoding.md R61) as arithmetic on the number it holds, and a word from its fields. -/

namespace Sys2Proof

theorem toNat_opcodeField (w : Word) : (opcodeField w).toNat = w.toNat / 1024 := by
  rw [opcodeField, BitVec.extractLsb'_toNat, Nat.shiftRight_eq_div_pow]
  omega

theorem raField_eq_ite (w : Word) : raField w = if w.toNat / 512 % 2 = 0 then .x else .y := by
  have hbit : w.getLsbD 9 = true ↔ ¬ w.toNat / 512 % 2 = 0 := by
    rw [BitVec.getLsbD, Nat.testBit_eq_decide_div_mod_eq, decide_eq_true_iff]
    omega
  rw [raField, if_congr hbit rfl rfl, ite_not]

theorem toNat_raStackBits (w : Word) : (raStackBits w).toNat = w.toNat / 256 % 4 := by
  rw [raStackBits, BitVec.extractLsb'_toNat, Nat.shiftRight_eq_div_pow]

theorem stackRegOf_eq_ite (b : BitVec 2) :
    stackRegOf b = if b.toNat = 0 then .x else if b.toNat = 1 then .y else if b.toNat = 2 then .acc else .pc := by
  revert b
  decide

theorem toNat_baField (w : Word) : (baField w).toNat = w.toNat % 1024 := by
  rw [baField, BitVec.extractLsb'_toNat, Nat.shiftRight_zero]

theorem toNat_immField (w : Word) : (immField w).toNat = w.toNat % 512 := by
  rw [immField, BitVec.extractLsb'_toNat, Nat.shiftRight_zero]

/-- A word is its opcode and its ten lower bits. -/
theorem eq_iff_opcodeField_baField {v w : Word} :
    v = w ↔ opcodeField v = opcodeField w ∧ baField v = baField w := by
  refine ⟨by rintro rfl; exact ⟨rfl, rfl⟩, fun ⟨hop, hba⟩ => BitVec.eq_of_toNat_eq ?_⟩
  have hop : v.toNat / 1024 = w.toNat / 1024 := by rw [← toNat_opcodeField, hop, toNat_opcodeField]
  have hba : v.toNat % 1024 = w.toNat % 1024 := by rw [← toNat_baField, hba, toNat_baField]
  omega

/-- Settles O11, from each field's arithmetic. -/
theorem fieldsOfAWord : Obligations.FieldsOfAWord := fun w =>
  ⟨toNat_opcodeField w, raField_eq_ite w, toNat_raStackBits w ▸ stackRegOf_eq_ite (raStackBits w),
    toNat_baField w, toNat_immField w⟩

end Sys2Proof
end

section
/-! The two pseudo-instructions as the machine runs them, word by word (30_encoding.md R70). -/

namespace Sys2Proof.Machine

theorem decode_branchWord_bra (ba : BitVec 10) : decode (branchWord 0x2800 ba) = .ok (.bra ba) := by
  have henc : branchWord 0x2800 ba = encodeFB 0b001010 ba := rfl
  rw [henc]
  simp [decode, formatFB]

/-- JMP's meaning is PSH PC's, then BRA's. -/
theorem exec_jmp_eq_exec_bra (ba : BitVec 10) (s : State) :
    exec (.jmp ba) s = exec (.bra ba) (nextPc (pushWord Config.stackOrder s.pc s)) := rfl

/-- Settles O24: JMP's two words decode to PSH PC and BRA, and the push leaves the second word where it stands. -/
theorem pseudoInstructionsExpand : Obligations.PseudoInstructionsExpand := by
  refine ⟨fun _ => rfl, rfl, fun _ => rfl, fun ba s hpsh hbra => ?_⟩
  have hstep : step s = .next (nextPc (pushWord Config.stackOrder s.pc s)) :=
    step_of_decode hpsh (i := .psh .pc) rfl
  have hir : (nextPc (pushWord Config.stackOrder s.pc s)).ir = some (branchWord 0x2800 ba) :=
    (imRead_congr rfl).trans hbra
  refine ⟨_, hstep, rfl, ?_⟩
  rw [step_of_decode hir (decode_branchWord_bra ba), exec_jmp_eq_exec_bra]

end Sys2Proof.Machine
end

section
/-! The decoder as the opcode map reads it (30_encoding.md R66): the opcode selects at most one row, and the word is
the row's instruction where its bits under the mask are the pattern's. -/

namespace Sys2Proof

open Machine

/-! ## The masks -/

theorem opcodeField_and (v w : Word) : opcodeField (v &&& w) = opcodeField v &&& opcodeField w :=
  BitVec.extractLsb'_and

theorem baField_and (v w : Word) : baField (v &&& w) = baField v &&& baField w :=
  BitVec.extractLsb'_and

/-- Under a mask that keeps the opcode and the lowest `k` bits, a word is an opcode with zeros below iff it has that
opcode and those `k` bits are zero. -/
theorem and_eq_encodeF0_iff {k : Nat} (hk : k ≤ 10) {w mask : Word} {op : BitVec 6}
    (hop : opcodeField mask = BitVec.allOnes 6) (hba : baField mask = (BitVec.allOnes k).setWidth 10) :
    w &&& mask = encodeF0 op ↔ opcodeField w = op ∧ w.extractLsb' 0 k = 0 := by
  have hopAnd : opcodeField (w &&& mask) = opcodeField w := by
    rw [opcodeField_and, hop, BitVec.and_allOnes]
  have hbaAnd : baField (w &&& mask) = (w.extractLsb' 0 k).setWidth 10 := by
    rw [baField_and, hba]
    apply BitVec.eq_of_getLsbD_eq
    intro j hj
    by_cases h : j < k <;> simp [baField, hj, h]
  have hzero : (w.extractLsb' 0 k).setWidth 10 = 0 ↔ w.extractLsb' 0 k = 0 := by
    rw [← BitVec.toNat_inj, ← BitVec.toNat_inj, BitVec.toNat_setWidth_of_le hk]
    rfl
  rw [eq_iff_opcodeField_baField, hopAnd, hbaAnd, opcodeField_encodeF0, baField_encodeF0, hzero]

/-! ## The rows -/

/-- `d` is the reading of `w` by a row of the opcode map that has its opcode: the row's instruction where the masked
word is the pattern, a reserved encoding elsewhere. -/
structure ReadsAs (row : OpRow) (w : Word) (d : Decoded) : Prop where
  mem : row ∈ opcodeRows
  opcode : opcodeField row.pattern = opcodeField w
  ok : w &&& row.mask = row.pattern → ∃ i, d = .ok i ∧ i.mnemonic = row.mnemonic
  reserved : w &&& row.mask ≠ row.pattern → d = .reservedEncoding

/-- A row that reads a word as an instruction matches the word and names the instruction. -/
theorem ReadsAs.of_ok {row : OpRow} {w : Word} {i : Instr} (h : ReadsAs row w (.ok i)) :
    w &&& row.mask = row.pattern ∧ i.mnemonic = row.mnemonic := by
  by_cases hw : w &&& row.mask = row.pattern
  · obtain ⟨j, hj, hname⟩ := h.ok hw
    cases hj
    exact ⟨hw, hname⟩
  · cases h.reserved hw

section
variable {w : Word} {n : Nat} (hn : (opcodeField w).toNat = n)
include hn

/-- The reading of a format whose lowest `k` bits must be zero. -/
theorem readsAs_of_low_bits {k : Nat} (hk : k ≤ 10) {name : String} {mask : Word} {i : Instr}
    (hrow : ⟨name, encodeF0 (BitVec.ofNat 6 n), mask⟩ ∈ opcodeRows) (hname : i.mnemonic = name)
    (hop : opcodeField mask = BitVec.allOnes 6) (hba : baField mask = (BitVec.allOnes k).setWidth 10) :
    ReadsAs ⟨name, encodeF0 (BitVec.ofNat 6 n), mask⟩ w
      (if w.extractLsb' 0 k = 0 then .ok i else .reservedEncoding) := by
  have hopcode : opcodeField w = BitVec.ofNat 6 n := by rw [← hn, BitVec.ofNat_toNat, BitVec.setWidth_eq]
  have hmasked : w &&& mask = encodeF0 (BitVec.ofNat 6 n) ↔ w.extractLsb' 0 k = 0 := by
    rw [and_eq_encodeF0_iff hk hop hba, and_iff_right hopcode]
  exact ⟨hrow, (opcodeField_encodeF0 _).trans hopcode.symm, fun h => ⟨i, if_pos (hmasked.mp h), hname⟩,
    fun h => if_neg (mt hmasked.mpr h)⟩

theorem formatF0_reads {i : Instr} (hrow : ⟨i.mnemonic, encodeF0 (BitVec.ofNat 6 n), 0xFFFF⟩ ∈ opcodeRows) :
    ∃ row, ReadsAs row w (formatF0 i w) :=
  ⟨_, readsAs_of_low_bits hn (k := 10) (by decide) hrow rfl rfl rfl⟩

theorem formatFU_reads {c : Reg → Instr} (hc : ∀ ra, (c ra).mnemonic = (c .x).mnemonic)
    (hrow : ⟨(c .x).mnemonic, encodeF0 (BitVec.ofNat 6 n), 0xFDFF⟩ ∈ opcodeRows) :
    ∃ row, ReadsAs row w (formatFU c w) :=
  ⟨_, readsAs_of_low_bits hn (k := 9) (by decide) hrow (hc _) rfl rfl⟩

theorem formatFS_reads {c : StackReg → Instr} (hc : ∀ ss, (c ss).mnemonic = (c .x).mnemonic)
    (hrow : ⟨(c .x).mnemonic, encodeF0 (BitVec.ofNat 6 n), 0xFCFF⟩ ∈ opcodeRows) :
    ∃ row, ReadsAs row w (formatFS c w) :=
  ⟨_, readsAs_of_low_bits hn (k := 8) (by decide) hrow (hc _) rfl rfl⟩

/-- The reading of a format with no must-be-zero bit. -/
theorem ok_reads {i : Instr} {name : String}
    (hrow : ⟨name, encodeF0 (BitVec.ofNat 6 n), 0xFC00⟩ ∈ opcodeRows) (hname : i.mnemonic = name) :
    ∃ row, ReadsAs row w (.ok i) := by
  have h := readsAs_of_low_bits hn (k := 0) (by decide) hrow hname rfl rfl
  exact ⟨_, if_pos (c := w.extractLsb' 0 0 = 0) BitVec.extractLsb'_eq_zero ▸ h⟩

theorem formatFM_reads {c : Reg → BitVec 9 → Instr} (hc : ∀ ra imm, (c ra imm).mnemonic = (c .x 0).mnemonic)
    (hrow : ⟨(c .x 0).mnemonic, encodeF0 (BitVec.ofNat 6 n), 0xFC00⟩ ∈ opcodeRows) :
    ∃ row, ReadsAs row w (formatFM c w) :=
  ok_reads hn hrow (hc _ _)

theorem formatFB_reads {c : BitVec 10 → Instr} (hc : ∀ ba, (c ba).mnemonic = (c 0).mnemonic)
    (hrow : ⟨(c 0).mnemonic, encodeF0 (BitVec.ofNat 6 n), 0xFC00⟩ ∈ opcodeRows) :
    ∃ row, ReadsAs row w (formatFB c w) :=
  ok_reads hn hrow (hc _)

end

/-- What a word can decode to (R65): no instruction if its opcode is unassigned (R67), else the reading of its
opcode's row. Case `h_n` is the n-th arm of the decoder. -/
theorem decode_cases (w : Word) :
    (unassignedOpcode w ∧ decode w = .illegalOpcode) ∨ ∃ row, ReadsAs row w (decode w) := by
  unfold decode
  split
  case h_1 h | h_2 h | h_30 h => exact .inr (formatF0_reads h (by decide))
  case h_5 h | h_6 h => exact .inr (formatFS_reads h (fun _ => rfl) (by decide))
  case h_7 h | h_8 h | h_9 h | h_10 h | h_11 h => exact .inr (formatFB_reads h (fun _ => rfl) (by decide))
  case h_20 h | h_21 h | h_25 h => exact .inr (formatFU_reads h (fun _ => rfl) (by decide))
  case h_3 h | h_4 h | h_12 h | h_13 h | h_14 h | h_15 h | h_16 h | h_17 h | h_18 h | h_19 h | h_22 h | h_23 h
  | h_24 h | h_26 h | h_27 h | h_28 h | h_29 h => exact .inr (formatFM_reads h (fun _ _ => rfl) (by decide))
  case h_31 =>
    refine .inl ⟨?_, rfl⟩
    rw [unassignedOpcode, ← toNat_opcodeField]
    simp only [imp_false] at *
    omega

/-! ## A row for each opcode -/

theorem opcodeField_mask : ∀ row ∈ opcodeRows, opcodeField row.mask = BitVec.allOnes 6 := by decide

theorem opcode_nodup : (opcodeRows.map fun row => opcodeField row.pattern).Nodup := by decide

theorem mnemonic_nodup : (opcodeRows.map OpRow.mnemonic).Nodup := by decide

theorem not_unassignedOpcode_pattern : ∀ row ∈ opcodeRows, ¬ unassignedOpcode row.pattern := by
  unfold unassignedOpcode
  decide

theorem unassignedOpcode_congr {v w : Word} (h : opcodeField v = opcodeField w) :
    unassignedOpcode v ↔ unassignedOpcode w := by
  rw [unassignedOpcode, unassignedOpcode, ← toNat_opcodeField, ← toNat_opcodeField, h]

/-- A word that a row's mask takes to the row's pattern has the row's opcode. -/
theorem opcodeField_of_masked {row : OpRow} (hrow : row ∈ opcodeRows) {w : Word} (h : w &&& row.mask = row.pattern) :
    opcodeField row.pattern = opcodeField w := by
  rw [← h, opcodeField_and, opcodeField_mask row hrow, BitVec.and_allOnes]

/-- Settles O10: a word is read by the one row of its opcode, and an instruction it decodes to names that row. -/
theorem opcodeMapIsDecoded : Obligations.OpcodeMapIsDecoded := by
  intro row hrow w
  constructor
  · intro hw
    have hop := opcodeField_of_masked hrow hw
    rcases decode_cases w with ⟨hun, -⟩ | ⟨row', h⟩
    · exact absurd ((unassignedOpcode_congr hop).mpr hun) (not_unassignedOpcode_pattern row hrow)
    · obtain rfl : row' = row := List.inj_on_of_nodup_map opcode_nodup h.mem hrow (h.opcode.trans hop.symm)
      exact h.ok hw
  · rintro ⟨i, hi, hname⟩
    rcases decode_cases w with ⟨-, hill⟩ | ⟨row', h⟩
    · cases hill.symm.trans hi
    · obtain ⟨hw, hname'⟩ := ReadsAs.of_ok (hi ▸ h)
      obtain rfl : row' = row := List.inj_on_of_nodup_map mnemonic_nodup h.mem hrow (hname'.symm.trans hname)
      exact hw

end Sys2Proof
end

section
/-! The transfers TRX and TRY (40_transfer.md): each is the reading of one word, and each writes its register and moves
PC on. -/

namespace Sys2Proof.Machine

/-- An instruction whose row masks no bit away, and whose mnemonic no other has, is the reading of the row's pattern
and of no other word. -/
theorem decode_eq_ok_iff_of_full_mask {i : Instr} {p : Word} (hrow : ⟨i.mnemonic, p, 0xFFFF⟩ ∈ opcodeRows)
    (hname : ∀ j : Instr, j.mnemonic = i.mnemonic → j = i) (w : Word) : decode w = .ok i ↔ w = p := by
  have hread : w &&& 0xFFFF = p ↔ ∃ j, decode w = .ok j ∧ j.mnemonic = i.mnemonic :=
    opcodeMapIsDecoded _ hrow w
  have hmask : w &&& 0xFFFF = w := BitVec.and_allOnes
  rw [hmask] at hread
  rw [hread]
  constructor
  · exact fun h => ⟨i, h, rfl⟩
  · rintro ⟨j, hj, hji⟩
    rwa [← hname j hji]

theorem eq_trx_of_mnemonic (i : Instr) (h : i.mnemonic = Instr.mnemonic .trx) : i = .trx := by
  cases i with
  | trx => rfl
  | _ => simp [Instr.mnemonic] at h

theorem eq_try_of_mnemonic (i : Instr) (h : i.mnemonic = Instr.mnemonic .try_) : i = .try_ := by
  cases i with
  | try_ => rfl
  | _ => simp [Instr.mnemonic] at h

theorem otherReg_ne (ra : Reg) : otherReg ra ≠ ra := by
  cases ra <;> decide

theorem onlyReg_nextPc_writeReg (ra : Reg) (v : Word) (s : State) : OnlyReg ra v s (nextPc (writeReg ra v s)) :=
  ⟨readReg_writeReg_same ra v s, readReg_writeReg_other (otherReg_ne ra) v s, writeReg_acc ra v s⟩

theorem plainFrame_nextPc_writeReg (ra : Reg) (v : Word) (s : State) : PlainFrame s (nextPc (writeReg ra v s)) := by
  have hmem : SameMemories s (nextPc (writeReg ra v s)) :=
    ⟨fun _ => dmRead_congr (writeReg_dm ra v s), fun _ => imRead_congr (writeReg_im ra v s)⟩
  have hunit : SameUnit s (nextPc (writeReg ra v s)) := ⟨writeReg_fact ra v s, writeReg_draws ra v s⟩
  exact ⟨congrArg (· + 1) (writeReg_pc ra v s), writeReg_sp ra v s, writeReg_flags ra v s, hmem, hunit⟩

theorem exec_trx (s : State) : exec .trx s = .next (nextPc (writeReg .x s.acc s)) := rfl

theorem exec_try (s : State) : exec .try_ s = .next (nextPc (writeReg .y s.acc s)) := rfl

/-- Settles O16: each transfer's row of the opcode map matches one word, and the instruction is a write of ACC to its
register followed by PC + 1. -/
theorem transferResults : Obligations.TransferResults := by
  refine ⟨decode_eq_ok_iff_of_full_mask (by decide) eq_trx_of_mnemonic,
    decode_eq_ok_iff_of_full_mask (by decide) eq_try_of_mnemonic, fun s => ⟨?_, ?_⟩⟩
  · exact ⟨_, exec_trx s, onlyReg_nextPc_writeReg .x s.acc s, plainFrame_nextPc_writeReg .x s.acc s⟩
  · exact ⟨_, exec_try s, onlyReg_nextPc_writeReg .y s.acc s, plainFrame_nextPc_writeReg .y s.acc s⟩

end Sys2Proof.Machine
end

section
/-! The store (41_load_store.md R111): the word `0x0C00 | RA << 9 | IMM` is the encoder's, and the data memory changes
at IMM only. -/

namespace Sys2Proof.Machine

/-- The word formula of format FM is the encoder's word. -/
theorem immWord_opcodeBits (op : BitVec 6) (ra : Reg) (imm : BitVec 9) :
    immWord (opcodeBits op) ra imm = encodeFM op ra imm := by
  cases ra with
  | x =>
    have hbit : Reg.x.bit.setWidth 16 <<< 9 = 0#16 := rfl
    rw [immWord, regWord, encodeFM, hbit, BitVec.or_zero]
  | y => rfl

theorem decode_immWord_str (ra : Reg) (imm : BitVec 9) : decode (immWord 0x0C00 ra imm) = .ok (.str ra imm) := by
  have henc : immWord 0x0C00 ra imm = encodeFM 0b000011 ra imm := immWord_opcodeBits 0b000011 ra imm
  rw [henc]
  simp [decode, formatFM]

theorem sameMemoriesBut_dmWrite (a : BitVec 9) (v : Word) (s : State) : SameMemoriesBut a s (dmWrite a v s) :=
  ⟨fun _ hb => dmRead_dmWrite_other hb v s, fun _ => imRead_congr (dmWrite_im a v s)⟩

theorem exec_str (ra : Reg) (imm : BitVec 9) (s : State) :
    exec (.str ra imm) s = .next (nextPc (dmWrite imm (readReg ra s) s)) := rfl

/-- Settles O18: STR is a write of R(RA) to the data memory at IMM followed by PC + 1, and neither touches another
word, register or flag. -/
theorem strResult : Obligations.StrResult := by
  intro ra imm s
  have hword : dmRead imm (nextPc (dmWrite imm (readReg ra s) s)) = some (readReg ra s) :=
    dmRead_dmWrite_same imm (readReg ra s) s
  have hmem : SameMemoriesBut imm s (nextPc (dmWrite imm (readReg ra s) s)) :=
    sameMemoriesBut_dmWrite imm (readReg ra s) s
  exact ⟨decode_immWord_str ra imm, _, exec_str ra imm s, hword, hmem, ⟨rfl, rfl, rfl⟩, rfl, rfl, rfl, rfl, rfl⟩

end Sys2Proof.Machine
end

section
/-! The branches (43_branch.md R130 to R134): the word `opcode << 10 | BA` is the encoder's, and the instruction sets PC
to BA or moves it on, whatever else the state holds. -/

namespace Sys2Proof.Machine

/-- The word formula of format FB is the encoder's word. -/
theorem branchWord_opcodeBits (op : BitVec 6) (ba : BitVec 10) : branchWord (opcodeBits op) ba = encodeFB op ba := rfl

/-- Where the decoder reads an opcode's words in format FB, it gives the instruction with the BA of the formula. -/
theorem decode_branchWord {op : BitVec 6} {c : BitVec 10 → Instr} (ba : BitVec 10)
    (hop : ∀ w, opcodeField w = op → decode w = formatFB c w) :
    decode (branchWord (opcodeBits op) ba) = .ok (c ba) := by
  rw [branchWord_opcodeBits, hop _ (opcodeField_encodeFB op ba), formatFB, baField_encodeFB]

theorem decode_branchWord_brz (ba : BitVec 10) : decode (branchWord 0x1800 ba) = .ok (.brz ba) :=
  decode_branchWord (op := 0b000110) ba fun w hw => by rw [decode, hw]; rfl

theorem decode_branchWord_brn (ba : BitVec 10) : decode (branchWord 0x1C00 ba) = .ok (.brn ba) :=
  decode_branchWord (op := 0b000111) ba fun w hw => by rw [decode, hw]; rfl

theorem decode_branchWord_brc (ba : BitVec 10) : decode (branchWord 0x2000 ba) = .ok (.brc ba) :=
  decode_branchWord (op := 0b001000) ba fun w hw => by rw [decode, hw]; rfl

theorem decode_branchWord_bro (ba : BitVec 10) : decode (branchWord 0x2400 ba) = .ok (.bro ba) :=
  decode_branchWord (op := 0b001001) ba fun w hw => by rw [decode, hw]; rfl

theorem zextBa_eq_ofNat (ba : BitVec 10) : zextBa ba = BitVec.ofNat 16 ba.toNat :=
  (BitVec.ofNat_toNat 16 ba).symm

/-- A branch is a write of PC, taken or not. -/
theorem branchIf_eq_setPc (cond : Bool) (ba : BitVec 10) (s : State) :
    branchIf cond ba s = s.setPc (if cond then BitVec.ofNat 16 ba.toNat else s.pc + 1) := by
  rw [← zextBa_eq_ofNat]
  cases cond with
  | true => rfl
  | false => rfl

theorem exec_brz (ba : BitVec 10) (s : State) : exec (.brz ba) s = .next (branchIf s.flags.z ba s) := rfl

theorem exec_brn (ba : BitVec 10) (s : State) : exec (.brn ba) s = .next (branchIf s.flags.n ba s) := rfl

theorem exec_brc (ba : BitVec 10) (s : State) : exec (.brc ba) s = .next (branchIf s.flags.c ba s) := rfl

theorem exec_bro (ba : BitVec 10) (s : State) : exec (.bro ba) s = .next (branchIf s.flags.v ba s) := rfl

theorem exec_bra (ba : BitVec 10) (s : State) : exec (.bra ba) s = .next (s.setPc (BitVec.ofNat 16 ba.toNat)) :=
  congrArg Host.Outcome.next (branchIf_eq_setPc true ba s)

/-- Writing PC with the value it holds changes nothing. -/
theorem setPc_eq_self {v : Word} {s : State} (h : s.pc = v) : s.setPc v = s := h ▸ rfl

/-- Settles O22: each conditional branch is one branch on its own flag, and a branch is a write of PC. -/
theorem conditionalBranchResults : Obligations.ConditionalBranchResults := by
  intro ba s
  refine ⟨⟨decode_branchWord_brz ba, decode_branchWord_brn ba, decode_branchWord_brc ba, decode_branchWord_bro ba⟩,
    ?_, ?_, ?_, ?_⟩
  · rw [exec_brz, branchIf_eq_setPc]
  · rw [exec_brn, branchIf_eq_setPc]
  · rw [exec_brc, branchIf_eq_setPc]
  · rw [exec_bro, branchIf_eq_setPc]

/-- Settles O23: BRA writes PC with BA, which leaves the state as it is when PC is BA already. -/
theorem braResult : Obligations.BraResult := by
  refine fun ba s => ⟨decode_branchWord_bra ba, exec_bra ba s, fun hpc => ?_⟩
  have hba : s.pc = BitVec.ofNat 16 ba.toNat := by rw [← hpc, BitVec.ofNat_toNat, BitVec.setWidth_eq]
  rw [exec_bra, setPc_eq_self hba]

end Sys2Proof.Machine
end

section
/-! The two-form ALU instructions (44_alu_common.md R141, R142): the operands are those R141 tabulates, and the
write-back writes the form's register and the flags; then ADD (45_alu_arith.md R160). -/

namespace Sys2Proof.Machine

/-- Where the decoder reads an opcode's words in format FM, it gives the instruction with the RA and IMM of the
formula. -/
theorem decode_immWord {op : BitVec 6} {c : Reg → BitVec 9 → Instr} (ra : Reg) (imm : BitVec 9)
    (hop : ∀ w, opcodeField w = op → decode w = formatFM c w) :
    decode (immWord (opcodeBits op) ra imm) = .ok (c ra imm) := by
  rw [immWord_opcodeBits, hop _ (opcodeField_encodeFM op ra imm), formatFM, raField_encodeFM, immField_encodeFM]

theorem twoForm_left (ra : Reg) (imm : BitVec 9) (s : State) : (twoForm ra imm s).left = leftOperand ra imm s := by
  rw [twoForm, leftOperand, apply_ite AluOperands.left]

theorem twoForm_right (ra : Reg) (imm : BitVec 9) (s : State) :
    (twoForm ra imm s).right = rightOperand ra imm s := by
  rw [twoForm, rightOperand, apply_ite AluOperands.right]

theorem aluTwoForm_eq_operands (op : Word → Word → AluOut) (ra : Reg) (imm : BitVec 9) (s : State) :
    aluTwoForm op ra imm s =
      .next (writeBack (twoForm ra imm s).dest (op (leftOperand ra imm s) (rightOperand ra imm s)) s) := by
  rw [aluTwoForm_eq, twoForm_left, twoForm_right]

theorem twoFormWrite_writeBack (ra : Reg) (imm : BitVec 9) (o : AluOut) (s : State) :
    TwoFormWrite ra imm o.res s (writeBack (twoForm ra imm s).dest o s) := by
  constructor
  · rintro rfl
    exact ⟨rfl, rfl, rfl⟩
  · intro himm
    rw [twoForm_imm himm]
    exact ⟨readReg_writeBack_same ra o s, readReg_writeBack_other (otherReg_ne ra) o s, writeBack_reg_acc ra o s⟩

theorem sameMemories_writeBack (d : Dest) (o : AluOut) (s : State) : SameMemories s (writeBack d o s) :=
  ⟨fun _ => dmRead_congr (writeBack_dm d o s), fun _ => imRead_congr (writeBack_im d o s)⟩

theorem aluFrame_writeBack {z n c v : Bool} {o : AluOut} (ho : o.flags = ⟨z, n, c, v⟩) (d : Dest) (s : State) :
    AluFrame z n c v s (writeBack d o s) :=
  ⟨(writeBack_flags d o s).trans ho, writeBack_pc d o s, writeBack_sp d o s, sameMemories_writeBack d o s,
    writeBack_fact d o s, writeBack_draws d o s⟩

/-! ## ADD -/

theorem decode_immWord_add (ra : Reg) (imm : BitVec 9) : decode (immWord 0x3400 ra imm) = .ok (.add ra imm) :=
  decode_immWord (op := 0b001101) ra imm fun w hw => by rw [decode, hw]; rfl

theorem exec_add (ra : Reg) (imm : BitVec 9) (s : State) : exec (.add ra imm) s = aluTwoForm aluAdd ra imm s := rfl

theorem add_eq_ofNat_mod (a b : Word) : a + b = BitVec.ofNat 16 ((a.toNat + b.toNat) % 65536) :=
  BitVec.eq_of_toNat_eq (by simp)

theorem addOverflow_eq_decide (a b res : Word) :
    addOverflow a b res = decide (a.getLsbD 15 = b.getLsbD 15 ∧ res.getLsbD 15 ≠ a.getLsbD 15) := by
  rw [addOverflow, Bool.decide_and, decide_not, bne, Bool.beq_eq_decide_eq, Bool.beq_eq_decide_eq]

theorem aluAdd_flags (a b : Word) :
    (aluAdd a b).flags =
      ⟨decide (a + b = 0), (a + b).getLsbD 15, decide (a.toNat + b.toNat > 65535),
        decide (a.getLsbD 15 = b.getLsbD 15 ∧ (a + b).getLsbD 15 ≠ a.getLsbD 15)⟩ := by
  rw [← addOverflow_eq_decide]
  rfl

/-- Settles O27: ADD is the write-back of the ALU's sum of the two operands, and that sum is the exact one modulo
2^16. -/
theorem addResult : Obligations.AddResult := by
  rintro ra imm s a b res rfl rfl hres
  rw [← add_eq_ofNat_mod] at hres
  subst hres
  refine ⟨decode_immWord_add ra imm, _, (exec_add ra imm s).trans (aluTwoForm_eq_operands aluAdd ra imm s), ?_, ?_⟩
  · exact twoFormWrite_writeBack ra imm (aluAdd _ _) s
  · exact aluFrame_writeBack (aluAdd_flags _ _) _ s

end Sys2Proof.Machine
end

section
/-! MOV and NOP (48_mov_nop.md R210, R211): MOV writes one register with the sign-extended immediate and moves PC on;
NOP, the reading of one word, moves PC on. -/

namespace Sys2Proof.Machine

theorem decode_immWord_mov (ra : Reg) (imm : BitVec 9) : decode (immWord 0x7800 ra imm) = .ok (.mov ra imm) :=
  decode_immWord (op := 0b011110) ra imm fun w hw => by rw [decode, hw]; rfl

theorem exec_mov (ra : Reg) (imm : BitVec 9) (s : State) :
    exec (.mov ra imm) s = .next (nextPc (writeReg ra (sextImm imm) s)) := rfl

/-- The extension of an immediate keeps its signed value (00_scope.md R4). -/
theorem toInt_sextImm (imm : BitVec 9) : (sextImm imm).toInt = imm.toInt :=
  BitVec.toInt_signExtend_of_le (by decide)

/-- Settles O45: MOV is a write of the extended immediate to R(RA) followed by PC + 1. -/
theorem movResult : Obligations.MovResult := fun ra imm s =>
  ⟨decode_immWord_mov ra imm, _, sextImm imm, exec_mov ra imm s, onlyReg_nextPc_writeReg ra (sextImm imm) s,
    toInt_sextImm imm, plainFrame_nextPc_writeReg ra (sextImm imm) s⟩

theorem eq_nop_of_mnemonic (i : Instr) (h : i.mnemonic = Instr.mnemonic .nop) : i = .nop := by
  cases i with
  | nop => rfl
  | _ => simp [Instr.mnemonic] at h

theorem exec_nop (s : State) : exec .nop s = .next (s.setPc (s.pc + 1)) := rfl

/-- Settles O46: NOP's row of the opcode map matches one word, and the instruction is PC + 1 alone. -/
theorem nopResult : Obligations.NopResult :=
  ⟨decode_eq_ok_iff_of_full_mask (by decide) eq_nop_of_mnemonic, exec_nop⟩

end Sys2Proof.Machine
end

section
/-! The first fetch after reset (70_reset_and_hazards.md R250, R251): reset points PC at location 0 and keeps the
instruction memory. -/

namespace Sys2Proof.Machine

theorem pcIndex_hwReset_pc (s : State) : pcIndex (hwReset s).pc = 0 := rfl

theorem hwReset_im (s : State) : (hwReset s).im = s.im := State.setIm_im s.im State.reset

/-- Whatever the state before it, reset leaves location 0 of the instruction memory in the instruction register. -/
theorem hwReset_ir (s : State) : (hwReset s).ir = imRead 0 s := by
  rw [State.ir, pcIndex_hwReset_pc, imRead_congr (hwReset_im s)]

/-- Settles O4: the first fetch reads location 0, and the step is the instruction its word decodes to. -/
theorem firstInstructionAfterReset : Obligations.FirstInstructionAfterReset := by
  intro s w i hw hi
  have hir : (hwReset s).ir = some w := (hwReset_ir s).trans hw
  exact ⟨hir, step_of_decode hir hi⟩

end Sys2Proof.Machine
end

section
/-! Decoder and encoder undo each other (30_encoding.md sections 3, 4): the decoder reads each format's word as the
instruction it encodes, and a word that decodes is put together again from its fields. -/

namespace Sys2Proof

open Machine

/-! ## Decoding an encoded word -/

section
variable {op : BitVec 6}

theorem decode_encodeF0 {i : Instr} (hop : ∀ w, opcodeField w = op → decode w = formatF0 i w) :
    decode (encodeF0 op) = .ok i := by
  rw [hop _ (opcodeField_encodeF0 op), formatF0, if_pos (baField_encodeF0 op)]

theorem decode_encodeFM {c : Reg → BitVec 9 → Instr} (ra : Reg) (imm : BitVec 9)
    (hop : ∀ w, opcodeField w = op → decode w = formatFM c w) : decode (encodeFM op ra imm) = .ok (c ra imm) :=
  immWord_opcodeBits op ra imm ▸ decode_immWord ra imm hop

theorem decode_encodeFU {c : Reg → Instr} (ra : Reg) (hop : ∀ w, opcodeField w = op → decode w = formatFU c w) :
    decode (encodeFU op ra) = .ok (c ra) := by
  rw [hop _ (opcodeField_encodeFU op ra), formatFU, if_pos (immField_encodeFU op ra), raField_encodeFU]

theorem decode_encodeFS {c : StackReg → Instr} (ss : StackReg)
    (hop : ∀ w, opcodeField w = op → decode w = formatFS c w) : decode (encodeFS op ss) = .ok (c ss) := by
  rw [hop _ (opcodeField_encodeFS op ss), formatFS, if_pos (lowByte_encodeFS op ss), raStackField_encodeFS]

theorem decode_encodeFB {c : BitVec 10 → Instr} (ba : BitVec 10)
    (hop : ∀ w, opcodeField w = op → decode w = formatFB c w) : decode (encodeFB op ba) = .ok (c ba) :=
  branchWord_opcodeBits op ba ▸ decode_branchWord ba hop

end

theorem decode_psh (ss : StackReg) : decode (encodeFS 0b000100 ss) = .ok (.psh ss) :=
  decode_encodeFS ss fun w hw => by rw [decode, hw]; rfl

theorem decode_pop (ss : StackReg) : decode (encodeFS 0b000101 ss) = .ok (.pop ss) :=
  decode_encodeFS ss fun w hw => by rw [decode, hw]; rfl

theorem expand_of_wellFormed {i : Instr} (hi : i.WellFormed) : i.expand = [i] := by
  cases i with
  | jmp | ret => cases hi
  | _ => rfl

/-- Settles O13: each instruction's words are words of its format, and the format's fields are the operands. -/
theorem decodeOfEncode : Obligations.DecodeOfEncode := by
  refine fun i => ⟨?_, expand_of_wellFormed⟩
  cases i with
  | jmp ba => exact congrArg₂ ([·, ·]) (decode_psh .pc) (decode_branchWord_bra ba)
  | ret => exact congrArg ([·]) (decode_pop .pc)
  | psh ss => exact congrArg ([·]) (decode_psh ss)
  | pop ss => exact congrArg ([·]) (decode_pop ss)
  | trx | try_ | nop => exact congrArg ([·]) (decode_encodeF0 fun w hw => by rw [decode, hw]; rfl)
  | inc ra | dec ra | not ra => exact congrArg ([·]) (decode_encodeFU ra fun w hw => by rw [decode, hw]; rfl)
  | brz ba | brn ba | brc ba | bro ba | bra ba =>
    exact congrArg ([·]) (decode_encodeFB ba fun w hw => by rw [decode, hw]; rfl)
  | ldr ra imm | str ra imm | add ra imm | sub ra imm | lsr ra imm | lsl ra imm | mul ra imm | div ra imm
  | mod ra imm | cmp ra imm | and ra imm | or ra imm | xor ra imm | rsr ra imm | rsl ra imm | fct ra imm
  | mov ra imm => exact congrArg ([·]) (decode_encodeFM ra imm fun w hw => by rw [decode, hw]; rfl)

/-- A machine instruction's one word decodes to it. -/
theorem decode_of_encode {i : Instr} {w : Word} (hi : i.WellFormed) (hw : encode i = [w]) : decode w = .ok i := by
  have h := (decodeOfEncode i).1
  rw [hw, expand_of_wellFormed hi] at h
  exact List.head_eq_of_cons_eq h

/-! ## The word formulas of the instruction rules -/

theorem regWord_opcodeBits (op : BitVec 6) (ra : Reg) : regWord (opcodeBits op) ra = encodeFU op ra := by
  cases ra with
  | x => exact (BitVec.or_zero (x := opcodeBits op)).symm
  | y => rfl

/-- The word of a format FM instruction, as its rule writes it, decodes to it. -/
theorem decode_immWord_of_encode {op : BitVec 6} {i : Instr} {ra : Reg} {imm : BitVec 9} (hi : i.WellFormed)
    (h : encode i = [encodeFM op ra imm]) : decode (immWord (opcodeBits op) ra imm) = .ok i :=
  immWord_opcodeBits op ra imm ▸ decode_of_encode hi h

/-- The word of a format FU instruction, as its rule writes it, decodes to it. -/
theorem decode_regWord_of_encode {op : BitVec 6} {i : Instr} {ra : Reg} (hi : i.WellFormed)
    (h : encode i = [encodeFU op ra]) : decode (regWord (opcodeBits op) ra) = .ok i :=
  regWord_opcodeBits op ra ▸ decode_of_encode hi h

/-! ## Encoding a decoded word -/

/-! A word is put together again from the fields of its format. -/

section
variable {w : Word}

theorem encodeF0_opcodeField (h : baField w = 0) : encodeF0 (opcodeField w) = w := by
  rw [eq_iff_opcodeField_baField, opcodeField_encodeF0, baField_encodeF0, h]
  exact ⟨rfl, rfl⟩

theorem encodeFB_fields (w : Word) : encodeFB (opcodeField w) (baField w) = w := by
  rw [eq_iff_opcodeField_baField, opcodeField_encodeFB, baField_encodeFB]
  exact ⟨rfl, rfl⟩

theorem bit_raField (w : Word) : (raField w).bit = w.extractLsb' 9 1 := by
  apply BitVec.eq_of_toNat_eq
  rw [raField_eq_ite, BitVec.extractLsb'_toNat, Nat.shiftRight_eq_div_pow]
  by_cases h : w.toNat / 512 % 2 = 0
  · simp [h, Reg.bit]
  · simp [Reg.bit, Nat.mod_two_ne_zero.mp h]

theorem encodeFM_fields (w : Word) : encodeFM (opcodeField w) (raField w) (immField w) = w := by
  refine eq_iff_opcodeField_baField.mpr ⟨opcodeField_encodeFM _ _ _, BitVec.eq_of_getLsbD_eq fun k hk => ?_⟩
  rcases Nat.lt_succ_iff_lt_or_eq.mp hk with h | rfl
  · simp [baField, encodeFM, immField, hk, h, opcodeBits_getElem_low, show k < 16 by omega]
  · simp [baField, encodeFM, immField, opcodeBits_getElem_low, bit_raField]

theorem encodeFU_fields (h : immField w = 0) : encodeFU (opcodeField w) (raField w) = w := by
  have hw := encodeFM_fields w
  rw [h] at hw
  exact (BitVec.or_zero (x := encodeFU (opcodeField w) (raField w))).symm.trans hw

theorem bits_raStackField (w : Word) : (raStackField w).bits = raStackBits w := by
  have hbits : ∀ b : BitVec 2, (stackRegOf b).bits = b := by decide
  exact hbits (raStackBits w)

theorem encodeFS_fields (h : lowByte w = 0) : encodeFS (opcodeField w) (raStackField w) = w := by
  refine eq_iff_opcodeField_baField.mpr ⟨opcodeField_encodeFS _ _, BitVec.eq_of_getLsbD_eq fun k hk => ?_⟩
  rw [encodeFS, bits_raStackField]
  by_cases h8 : k < 8
  · have hlow : (lowByte w)[k] = false := by rw [h]; exact BitVec.getElem_zero h8
    have hbit : w.getLsbD k = false := by simpa [lowByte] using hlow
    simp [baField, hk, h8, hbit, opcodeBits_low]
  · simp [baField, raStackBits, hk, h8, opcodeBits_getElem_low, show k < 16 by omega, show k ≤ 9 by omega,
      show 8 + (k - 8) = k by omega]

/-! What a format's reading of a word with opcode `n` gives back is a machine instruction with that word. -/

variable {n : Nat} {i : Instr} (hn : (opcodeField w).toNat = n)
include hn

theorem encode_of_formatF0 {j : Instr} (hwf : j.WellFormed) (henc : encode j = [encodeF0 (BitVec.ofNat 6 n)])
    (h : formatF0 j w = .ok i) : i.WellFormed ∧ encode i = [w] := by
  rw [← hn, BitVec.ofNat_toNat, BitVec.setWidth_eq] at henc
  rw [formatF0] at h
  split at h
  case isTrue h0 => cases h; exact ⟨hwf, by rw [henc, encodeF0_opcodeField h0]⟩
  case isFalse => cases h

theorem encode_of_formatFM {c : Reg → BitVec 9 → Instr} (hwf : ∀ ra imm, (c ra imm).WellFormed)
    (henc : ∀ ra imm, encode (c ra imm) = [encodeFM (BitVec.ofNat 6 n) ra imm])
    (h : formatFM c w = .ok i) : i.WellFormed ∧ encode i = [w] := by
  simp only [← hn, BitVec.ofNat_toNat, BitVec.setWidth_eq] at henc
  cases h
  exact ⟨hwf _ _, by rw [henc, encodeFM_fields]⟩

theorem encode_of_formatFU {c : Reg → Instr} (hwf : ∀ ra, (c ra).WellFormed)
    (henc : ∀ ra, encode (c ra) = [encodeFU (BitVec.ofNat 6 n) ra])
    (h : formatFU c w = .ok i) : i.WellFormed ∧ encode i = [w] := by
  simp only [← hn, BitVec.ofNat_toNat, BitVec.setWidth_eq] at henc
  rw [formatFU] at h
  split at h
  case isTrue h0 => cases h; exact ⟨hwf _, by rw [henc, encodeFU_fields h0]⟩
  case isFalse => cases h

theorem encode_of_formatFS {c : StackReg → Instr} (hwf : ∀ ss, (c ss).WellFormed)
    (henc : ∀ ss, encode (c ss) = [encodeFS (BitVec.ofNat 6 n) ss])
    (h : formatFS c w = .ok i) : i.WellFormed ∧ encode i = [w] := by
  simp only [← hn, BitVec.ofNat_toNat, BitVec.setWidth_eq] at henc
  rw [formatFS] at h
  split at h
  case isTrue h0 => cases h; exact ⟨hwf _, by rw [henc, encodeFS_fields h0]⟩
  case isFalse => cases h

theorem encode_of_formatFB {c : BitVec 10 → Instr} (hwf : ∀ ba, (c ba).WellFormed)
    (henc : ∀ ba, encode (c ba) = [encodeFB (BitVec.ofNat 6 n) ba])
    (h : formatFB c w = .ok i) : i.WellFormed ∧ encode i = [w] := by
  simp only [← hn, BitVec.ofNat_toNat, BitVec.setWidth_eq] at henc
  cases h
  exact ⟨hwf _, by rw [henc, encodeFB_fields]⟩

end

/-- Settles O14: every arm of the decoder reads its opcode's format, and a format's fields give the word back. Case
`h_n` is the decoder's n-th arm. -/
theorem encodeOfDecode : Obligations.EncodeOfDecode := by
  intro w i h
  unfold decode at h
  split at h
  case h_1 hn | h_2 hn | h_30 hn => exact encode_of_formatF0 hn rfl rfl h
  case h_5 hn | h_6 hn => exact encode_of_formatFS hn (fun _ => rfl) (fun _ => rfl) h
  case h_7 hn | h_8 hn | h_9 hn | h_10 hn | h_11 hn => exact encode_of_formatFB hn (fun _ => rfl) (fun _ => rfl) h
  case h_20 hn | h_21 hn | h_25 hn => exact encode_of_formatFU hn (fun _ => rfl) (fun _ => rfl) h
  case h_3 hn | h_4 hn | h_12 hn | h_13 hn | h_14 hn | h_15 hn | h_16 hn | h_17 hn | h_18 hn | h_19 hn | h_22 hn
  | h_23 hn | h_24 hn | h_26 hn | h_27 hn | h_28 hn | h_29 hn =>
    exact encode_of_formatFM hn (fun _ _ => rfl) (fun _ _ => rfl) h
  case h_31 => cases h

end Sys2Proof
end

section
/-! The words that are no instruction (30_encoding.md sections 3 and 5), and where fetch and decode stop
(60_exceptions.md R221, orders 1 to 3). -/

namespace Sys2Proof

open Machine

/-! ## Which words a format rejects -/

section
variable {w : Word}

theorem baField_eq_zero_iff : baField w = 0 ↔ w.toNat % 1024 = 0 := by
  rw [← toNat_baField, ← BitVec.toNat_inj]
  rfl

theorem immField_eq_zero_iff : immField w = 0 ↔ w.toNat % 512 = 0 := by
  rw [← toNat_immField, ← BitVec.toNat_inj]
  rfl

theorem lowByte_eq_zero_iff : lowByte w = 0 ↔ w.toNat % 256 = 0 := by
  rw [← BitVec.toNat_inj, lowByte, BitVec.extractLsb'_toNat, Nat.shiftRight_zero]
  rfl

/-- `d` is what 30_encoding.md R67 and R68 say of `w`: which of the two rejections, if any. -/
structure RejectsAsListed (w : Word) (d : Decoded) : Prop where
  illegal : d = .illegalOpcode ↔ unassignedOpcode w
  reserved : d = .reservedEncoding ↔ reservedBits w

/-- The reading of a format with must-be-zero bits, all zero iff `p`. -/
theorem rejectsAsListed_ite {p : Prop} [Decidable p] {i : Instr} (hun : ¬ unassignedOpcode w)
    (hres : ¬ p ↔ reservedBits w) : RejectsAsListed w (if p then .ok i else .reservedEncoding) := by
  by_cases hp : p
  · rw [if_pos hp]
    exact ⟨iff_of_false nofun hun, iff_of_false nofun (hres.not.mp (not_not_intro hp))⟩
  · rw [if_neg hp]
    exact ⟨iff_of_false nofun hun, iff_of_true rfl (hres.mp hp)⟩

theorem rejectsAsListed_formatF0 {i : Instr}
    (h : w.toNat / 1024 = 0 ∨ w.toNat / 1024 = 1 ∨ w.toNat / 1024 = 63) : RejectsAsListed w (formatF0 i w) := by
  refine rejectsAsListed_ite ?_ ?_
  · rw [unassignedOpcode]; omega
  · rw [reservedBits, baField_eq_zero_iff]; omega

theorem rejectsAsListed_formatFS {c : StackReg → Instr} (h : w.toNat / 1024 = 4 ∨ w.toNat / 1024 = 5) :
    RejectsAsListed w (formatFS c w) := by
  refine rejectsAsListed_ite ?_ ?_
  · rw [unassignedOpcode]; omega
  · rw [reservedBits, lowByte_eq_zero_iff]; omega

theorem rejectsAsListed_formatFU {c : Reg → Instr}
    (h : w.toNat / 1024 = 21 ∨ w.toNat / 1024 = 22 ∨ w.toNat / 1024 = 26) : RejectsAsListed w (formatFU c w) := by
  refine rejectsAsListed_ite ?_ ?_
  · rw [unassignedOpcode]; omega
  · rw [reservedBits, immField_eq_zero_iff]; omega

theorem rejectsAsListed_ok {i : Instr} (hun : ¬ unassignedOpcode w) (hres : ¬ reservedBits w) :
    RejectsAsListed w (.ok i) :=
  ⟨iff_of_false nofun hun, iff_of_false nofun hres⟩

theorem rejectsAsListed_illegalOpcode (hun : unassignedOpcode w) : RejectsAsListed w .illegalOpcode := by
  refine ⟨iff_of_true rfl hun, iff_of_false nofun ?_⟩
  rw [unassignedOpcode] at hun
  rw [reservedBits]
  omega

end

/-- The decoder rejects as listed; case `h_n` is its n-th arm. -/
theorem decode_rejectsAsListed (w : Word) : RejectsAsListed w (decode w) := by
  unfold decode
  simp only [toNat_opcodeField]
  split
  case h_1 h | h_2 h | h_30 h => exact rejectsAsListed_formatF0 (by omega)
  case h_5 h | h_6 h => exact rejectsAsListed_formatFS (by omega)
  case h_20 h | h_21 h | h_25 h => exact rejectsAsListed_formatFU (by omega)
  case h_31 =>
    simp only [imp_false] at *
    exact rejectsAsListed_illegalOpcode (by rw [unassignedOpcode]; omega)
  all_goals exact rejectsAsListed_ok (by rw [unassignedOpcode]; omega) (by rw [reservedBits]; omega)

/-- Settles O9: a word decodes to an instruction where neither rejection is listed. -/
theorem decodeRejectsExactly : Obligations.DecodeRejectsExactly := by
  intro w
  obtain ⟨hill, hres⟩ := decode_rejectsAsListed w
  refine ⟨hill, hres, ?_⟩
  rw [← hill, ← hres]
  cases decode w <;> simp

theorem step_of_illegalOpcode {s : State} {w : Word} (hir : s.ir = some w) (hw : decode w = .illegalOpcode) :
    step s = .fault .illegalOpcode := by
  simp [step, hir, hw]

theorem step_of_reservedEncoding {s : State} {w : Word} (hir : s.ir = some w) (hw : decode w = .reservedEncoding) :
    step s = .fault .reservedEncoding := by
  simp [step, hir, hw]

theorem step_of_unloaded {s : State} (hir : s.ir = none) : step s = .fault .unloadedInstruction := by
  simp [step, hir]

/-- Settles O8: a step stops where it fetches no word or its word is one the decoder rejects. -/
theorem fetchAndDecodeFaults : Obligations.FetchAndDecodeFaults := fun _ =>
  ⟨step_of_unloaded, fun w hw hun => step_of_illegalOpcode hw ((decode_rejectsAsListed w).illegal.mpr hun),
    fun w hw hres => step_of_reservedEncoding hw ((decode_rejectsAsListed w).reserved.mpr hres)⟩

/-- Settles O12: the decoder evaluated on each word. -/
theorem wordsDecodeAsWritten : Obligations.WordsDecodeAsWritten := by
  unfold Obligations.WordsDecodeAsWritten
  decide

end Sys2Proof
end

section
/-! What an instruction that goes on leaves in SP, the data memory and the factorial unit (10_state.md sections 3, 6,
7), said once for all instructions, and the invariant from it. -/

namespace Sys2Proof.Machine

/-! ## ALU instructions -/

/-- Where an ALU instruction writes its result (44_alu_common.md R141, R142). -/
def aluDest (i : Instr) : Dest :=
  match twoFormFields i with
  | some (ra, imm) => if imm = 0 then .acc else .reg ra
  | none =>
    match i with
    | .inc ra | .dec ra | .not ra | .fct ra _ => .reg ra
    | _ => .none

theorem twoForm_dest (ra : Reg) (imm : BitVec 9) (s : State) :
    (twoForm ra imm s).dest = if imm = 0 then .acc else .reg ra := by
  rw [twoForm, apply_ite AluOperands.dest]

/-- `t` is `s` after the write-back of some result to `d`, with the factorial unit as it was or idle. -/
def WrittenBack (d : Dest) (s t : State) : Prop :=
  ∃ o u k, t = ((writeBack d o s).setFact u).setDraws k ∧ (u = s.fact ∨ ∃ j, u = factIdle j)

theorem writtenBack_writeBack (d : Dest) (o : AluOut) (s : State) : WrittenBack d s (writeBack d o s) :=
  ⟨o, s.fact, s.draws, by rw [← writeBack_fact d o s, ← writeBack_draws d o s]; rfl, .inl rfl⟩

theorem writtenBack_of_aluTwoForm {op : Word → Word → AluOut} {ra : Reg} {imm : BitVec 9} {s t : State}
    (h : aluTwoForm op ra imm s = .next t) : WrittenBack (if imm = 0 then .acc else .reg ra) s t := by
  rw [aluTwoForm_eq, twoForm_dest] at h
  cases h
  exact writtenBack_writeBack _ _ s

theorem writtenBack_of_aluDivision {op : Word → Word → AluOut} {ra : Reg} {imm : BitVec 9} {s t : State}
    (h : aluDivision op ra imm s = .next t) : WrittenBack (if imm = 0 then .acc else .reg ra) s t := by
  by_cases h0 : (twoForm ra imm s).right = 0
  · cases (aluDivision_of_zero h0).symm.trans h
  · exact writtenBack_of_aluTwoForm ((aluDivision_of_ne_zero h0).symm.trans h)

theorem writtenBack_of_execFct {ra : Reg} {imm : BitVec 9} {s t : State} (h : execFct ra imm s = .next t) :
    WrittenBack (.reg ra) s t := by
  by_cases himm : imm = 0
  · subst himm
    cases (execFct_zero ra s).symm.trans h
  · cases (execFct_of_ne_zero himm).symm.trans h
    exact ⟨_, _, _, rfl, .inr ⟨s.draws, rfl⟩⟩

/-- An ALU instruction that goes on has written back its result and done nothing else. -/
theorem writtenBack_of_isAlu {i : Instr} {s t : State} (halu : isAlu i = true) (h : exec i s = .next t) :
    WrittenBack (aluDest i) s t := by
  cases i with
  | add ra imm | sub ra imm | mul ra imm | lsr ra imm | lsl ra imm | and ra imm | or ra imm | xor ra imm
  | rsr ra imm | rsl ra imm => exact writtenBack_of_aluTwoForm h
  | div ra imm | mod ra imm => exact writtenBack_of_aluDivision h
  | cmp ra imm | inc ra | dec ra | not ra => cases h; exact writtenBack_writeBack _ _ s
  | fct ra imm => exact writtenBack_of_execFct h
  | _ => cases halu

/-! ## Every instruction -/

/-- SP after an instruction that goes on. -/
def spAfter (i : Instr) (sp : Word) : Word :=
  match i with
  | .psh _ | .jmp _ => sp - 1
  | .pop _ | .ret => sp + 1
  | _ => sp

/-- The data memory after an instruction that goes on. -/
def dmAfter (i : Instr) (s : State) : Memory :=
  match storeOf i s with
  | some (a, v) => memWrite dmInit a.toNat v s.dm
  | none => s.dm

/-- SP, the data memory and the factorial unit are as `i` leaves them. -/
structure Leaves (i : Instr) (s t : State) : Prop where
  sp : t.sp = spAfter i s.sp
  dm : t.dm = dmAfter i s
  fact : t.fact = s.fact ∨ ∃ k, t.fact = factIdle k

theorem leaves_of_writtenBack {i : Instr} {d : Dest} {s t : State} (h : WrittenBack d s t)
    (hsp : spAfter i s.sp = s.sp) (hdm : dmAfter i s = s.dm) : Leaves i s t := by
  obtain ⟨o, u, k, rfl, hu⟩ := h
  exact ⟨(writeBack_sp d o s).trans hsp.symm, (writeBack_dm d o s).trans hdm.symm,
    hu.imp id fun ⟨j, hj⟩ => ⟨j, hj⟩⟩

theorem leaves_of_branchIf {i : Instr} (cond : Bool) (ba : BitVec 10) (s : State)
    (hsp : spAfter i s.sp = s.sp) (hdm : dmAfter i s = s.dm) : Leaves i s (branchIf cond ba s) :=
  ⟨(branchIf_sp cond ba s).trans hsp.symm, (branchIf_dm cond ba s).trans hdm.symm, .inl (branchIf_fact cond ba s)⟩

/-- What every instruction that goes on has done to SP, the data memory and the factorial unit. -/
theorem exec_next_leaves {i : Instr} {s t : State} (h : exec i s = .next t) : Leaves i s t := by
  cases i with
  | trx | try_ | nop | str ra imm | psh ss | jmp ba => cases h; exact ⟨rfl, rfl, .inl rfl⟩
  | mov ra imm =>
    cases h
    exact ⟨writeReg_sp ra _ s, writeReg_dm ra _ s, .inl (writeReg_fact ra _ s)⟩
  | ldr ra imm =>
    obtain ⟨v, -, rfl⟩ := withLoaded_eq_next.mp h
    exact ⟨writeReg_sp ra v s, writeReg_dm ra v s, .inl (writeReg_fact ra v s)⟩
  | pop ss =>
    obtain ⟨v, -, rfl⟩ := popWord_eq_next.mp h
    exact ⟨writePopped_sp ss v _, writePopped_dm ss v _, .inl (writePopped_fact ss v _)⟩
  | ret =>
    obtain ⟨v, -, rfl⟩ := popWord_eq_next.mp h
    exact ⟨rfl, rfl, .inl rfl⟩
  | brz ba | brn ba | brc ba | bro ba | bra ba => cases h; exact leaves_of_branchIf _ ba s rfl rfl
  | _ => exact leaves_of_writtenBack (writtenBack_of_isAlu rfl h) rfl rfl

/-! ## The invariant -/

theorem dmAfter_wf (i : Instr) {s : State} (h : Memory.wf dmInit Config.dmSize s.dm) :
    Memory.wf dmInit Config.dmSize (dmAfter i s) := by
  unfold dmAfter
  split
  case h_1 a v _ => exact memWrite_wf a.isLt h
  case h_2 => exact h

/-- Settles O57: a step runs one instruction, which stores at most one word, inside the data memory, leaves the
instruction memory alone and the factorial unit as it was or idle. -/
theorem stepKeepsInvariant : Obligations.StepKeepsInvariant := by
  rintro s t ⟨hdm, him, hrun, hreg⟩ hstep
  obtain ⟨-, i, -, -, hexec⟩ := step_next_inv hstep
  have ht := exec_next_leaves hexec
  refine ⟨ht.dm ▸ dmAfter_wf i hdm, (step_im hstep).symm ▸ him, ?_⟩
  rcases ht.fact with h | ⟨k, h⟩
  · rw [h]; exact ⟨hrun, hreg⟩
  · rw [h]; exact ⟨rfl, rfl⟩

/-- Settles O56: the reset state lists no memory word and its factorial unit is idle. -/
theorem resetMeetsInvariant : Obligations.ResetMeetsInvariant :=
  ⟨reset_memories_wf.1, reset_memories_wf.2, rfl, rfl⟩

/-! ## The data memory -/

/-- An instruction that stores nothing leaves every data memory word. -/
theorem dmRead_of_no_store {i : Instr} {s t : State} (h : exec i s = .next t) (hi : storeOf i s = none)
    (a : BitVec 9) : dmRead a t = dmRead a s := by
  have hdm := (exec_next_leaves h).dm
  rw [dmAfter, hi] at hdm
  exact dmRead_congr hdm

/-- An instruction that stores `v` at `b` leaves that word there and every other word as it was. -/
theorem dmRead_of_store {i : Instr} {s t : State} {b : BitVec 9} {v : Word} (h : exec i s = .next t)
    (hi : storeOf i s = some (b, v)) (a : BitVec 9) : dmRead a t = if a = b then some v else dmRead a s := by
  have hdm := (exec_next_leaves h).dm
  rw [dmAfter, hi] at hdm
  rw [dmRead_congr (s := dmWrite b v s) hdm]
  split
  case isTrue hab => rw [hab, dmRead_dmWrite_same]
  case isFalse hab => exact dmRead_dmWrite_other hab v s

/-- Settles O51: an instruction stores at most one word, and a read after it gives that word or the one before. -/
theorem dataMemoryHoldsTheLastStore : Obligations.DataMemoryHoldsTheLastStore := by
  refine ⟨fun _ => rfl, fun i s t h a => ?_⟩
  split
  case h_1 hi => exact dmRead_of_store h hi a
  case h_2 hi => exact dmRead_of_no_store h hi a

end Sys2Proof.Machine
end

section
/-! How PC advances (10_state.md R15) and the rules of SP (10_state.md section 3), for every instruction. -/

namespace Sys2Proof.Machine

/-! ## PC -/

theorem add_one_eq_ofNat_mod (v : Word) : v + 1 = BitVec.ofNat 16 ((v.toNat + 1) % 65536) :=
  add_eq_ofNat_mod v 1

theorem pc_of_writtenBack {d : Dest} {s t : State} (h : WrittenBack d s t) : t.pc = s.pc + 1 := by
  obtain ⟨o, u, k, rfl, -⟩ := h
  exact writeBack_pc d o s

theorem pc_branchIf (cond : Bool) (ba : BitVec 10) (s : State) :
    (branchIf cond ba s).pc = if cond then BitVec.ofNat 16 ba.toNat else s.pc + 1 :=
  congrArg State.pc (branchIf_eq_setPc cond ba s)

/-- A popped word goes to PC plus 2, or PC goes up by 1. -/
theorem pc_of_popWord {o : Config.StackOrder} {ss : StackReg} {s t : State}
    (h : popWord o s (writePopped ss) = .next t) :
    ∃ v, dmRead (popAddr o s.sp) s = some v ∧ t.pc = if ss = .pc then v + 2 else s.pc + 1 := by
  obtain ⟨v, hv, rfl⟩ := popWord_eq_next.mp h
  exact ⟨v, hv, writePopped_pc ss v _⟩

/-- Settles O48: PC is written by the branches and the pops, and moved on by 1 by every other instruction. -/
theorem pcAdvancesAsListed : Obligations.PcAdvancesAsListed := by
  intro i s t h hjmp
  cases i with
  | jmp ba => exact absurd rfl (hjmp ba)
  | brz ba | brn ba | brc ba | bro ba | bra ba => cases h; exact pc_branchIf _ ba s
  | ret => exact pc_of_popWord h
  | pop ss =>
    obtain ⟨v, hv, hpc⟩ := pc_of_popWord h
    cases ss with
    | pc => exact ⟨v, hv, hpc⟩
    | _ => exact hpc.trans (add_one_eq_ofNat_mod s.pc)
  | trx | try_ | nop | str ra imm | psh ss => cases h; exact add_one_eq_ofNat_mod s.pc
  | mov ra imm =>
    cases h
    exact (congrArg (· + 1) (writeReg_pc ra _ s)).trans (add_one_eq_ofNat_mod s.pc)
  | ldr ra imm =>
    obtain ⟨v, -, rfl⟩ := withLoaded_eq_next.mp h
    exact (congrArg (· + 1) (writeReg_pc ra v s)).trans (add_one_eq_ofNat_mod s.pc)
  | _ => exact (pc_of_writtenBack (writtenBack_of_isAlu rfl h)).trans (add_one_eq_ofNat_mod s.pc)

/-! ## SP -/

/-- The instructions that use SP. -/
def usesSp : Instr → Bool
  | .psh _ | .pop _ | .jmp _ | .ret => true
  | _ => false

theorem writeReg_setSp (ra : Reg) (v p : Word) (s : State) :
    writeReg ra v (s.setSp p) = (writeReg ra v s).setSp p := by
  cases ra <;> rfl

theorem writeBack_setSp (d : Dest) (o : AluOut) (p : Word) (s : State) :
    writeBack d o (s.setSp p) = (writeBack d o s).setSp p := by
  cases d with
  | reg ra => cases ra <;> rfl
  | _ => rfl

theorem branchIf_setSp (cond : Bool) (ba : BitVec 10) (p : Word) (s : State) :
    branchIf cond ba (s.setSp p) = (branchIf cond ba s).setSp p := by
  cases cond <;> rfl

/-- A mask of SP absorbs every write of SP and commutes with every other write. -/
theorem respectsWrites_setSp (r : Word) : RespectsWrites (State.setSp r) where
  setAcc v _ _ h := congrArg (State.setAcc v) h
  setX v _ _ h := congrArg (State.setX v) h
  setY v _ _ h := congrArg (State.setY v) h
  setPc v _ _ h := congrArg (State.setPc v) h
  setSp _ _ _ h := h
  setFlags f _ _ h := congrArg (State.setFlags f) h
  setDm d _ _ h := congrArg (State.setDm d) h
  setFact u _ _ h := congrArg (State.setFact u) h
  setDraws k _ _ h := congrArg (State.setDraws k) h

theorem map_setSp_map_setSp (r p : Word) (x : Result) :
    Result.map (State.setSp r) (Result.map (State.setSp p) x) = Result.map (State.setSp r) x := by
  cases x <;> rfl

section
variable (ra : Reg) (imm : BitVec 9) (p : Word) (s : State)

theorem twoForm_setSp : twoForm ra imm (s.setSp p) = twoForm ra imm s :=
  twoForm_congr (by cases ra <;> rfl) fun _ => rfl

theorem aluTwoForm_setSp (op : Word → Word → AluOut) :
    aluTwoForm op ra imm (s.setSp p) = Result.map (State.setSp p) (aluTwoForm op ra imm s) := by
  rw [aluTwoForm_eq, aluTwoForm_eq, twoForm_setSp, writeBack_setSp]
  rfl

theorem aluDivision_setSp (op : Word → Word → AluOut) :
    aluDivision op ra imm (s.setSp p) = Result.map (State.setSp p) (aluDivision op ra imm s) := by
  rw [aluDivision, aluDivision, twoForm_setSp, aluTwoForm_setSp]
  split <;> rfl

theorem aluCompare_setSp (op : Word → Word → AluOut) :
    aluCompare op ra imm (s.setSp p) = Result.map (State.setSp p) (aluCompare op ra imm s) := by
  rw [aluCompare, aluCompare, twoForm_setSp, writeBack_setSp]
  rfl

theorem aluUnary_setSp (op : Word → AluOut) :
    aluUnary op ra (s.setSp p) = Result.map (State.setSp p) (aluUnary op ra s) := by
  have hreg : readReg ra (s.setSp p) = readReg ra s := by cases ra <;> rfl
  rw [aluUnary, aluUnary, hreg, writeBack_setSp]
  rfl

theorem execFct_setSp : execFct ra imm (s.setSp p) = Result.map (State.setSp p) (execFct ra imm s) := by
  rw [execFct, execFct, writeBack_setSp]
  split <;> rfl

theorem execLdr_setSp : execLdr ra imm (s.setSp p) = Result.map (State.setSp p) (execLdr ra imm s) := by
  cases h : dmRead imm s with
  | none =>
    have hp : dmRead imm (s.setSp p) = none := h
    rw [execLdr, execLdr, withLoaded_of_none h, withLoaded_of_none hp]
    rfl
  | some v =>
    have hp : dmRead imm (s.setSp p) = some v := h
    rw [execLdr, execLdr, withLoaded_of_some h, withLoaded_of_some hp, writeReg_setSp]
    rfl

end

/-- An instruction that does not use SP does the same whatever it holds, and leaves it. -/
theorem exec_setSp {i : Instr} (hi : usesSp i = false) (p : Word) (s : State) :
    exec i (s.setSp p) = Result.map (State.setSp p) (exec i s) := by
  cases i with
  | psh | pop | jmp | ret => cases hi
  | trx | try_ | nop => rfl
  | str ra imm => cases ra <;> rfl
  | mov ra imm => cases ra <;> rfl
  | ldr ra imm => exact execLdr_setSp ra imm p s
  | brz ba | brn ba | brc ba | bro ba | bra ba => exact congrArg Host.Outcome.next (branchIf_setSp _ ba p s)
  | add ra imm | sub ra imm | mul ra imm | lsr ra imm | lsl ra imm | and ra imm | or ra imm | xor ra imm
  | rsr ra imm | rsl ra imm => exact aluTwoForm_setSp ra imm p s _
  | div ra imm | mod ra imm => exact aluDivision_setSp ra imm p s _
  | cmp ra imm => exact aluCompare_setSp ra imm p s _
  | inc ra => exact aluUnary_setSp ra p s (aluAdd · 1)
  | dec ra => exact aluUnary_setSp ra p s (aluSub · 1)
  | not ra => exact aluUnary_setSp ra p s aluNot
  | fct ra imm => exact execFct_setSp ra imm p s

theorem map_setSp_exec_setSp {i : Instr} (hi : usesSp i = false) (p q r : Word) (s : State) :
    Result.map (State.setSp r) (exec i (s.setSp p)) = Result.map (State.setSp r) (exec i (s.setSp q)) := by
  rw [exec_setSp hi, exec_setSp hi, map_setSp_map_setSp, map_setSp_map_setSp]

/-- The stack addresses depend on SP modulo 512. -/
theorem spIndex_congr {p q : Word} (h : p.toNat % 512 = q.toNat % 512) : spIndex p = spIndex q :=
  BitVec.eq_of_toNat_eq (by simpa [spIndex] using h)

theorem pushAddr_congr {p q : Word} (h : p.toNat % 512 = q.toNat % 512) (o : Config.StackOrder) :
    pushAddr o p = pushAddr o q := by
  cases o with
  | postDecPreInc => exact spIndex_congr h
  | preDecPostInc => exact spIndex_congr (by bv_omega)

theorem popAddr_congr {p q : Word} (h : p.toNat % 512 = q.toNat % 512) (o : Config.StackOrder) :
    popAddr o p = popAddr o q := by
  cases o with
  | postDecPreInc => exact spIndex_congr (by bv_omega)
  | preDecPostInc => exact spIndex_congr h

theorem readStackReg_setSp (ss : StackReg) (p : Word) (s : State) :
    readStackReg ss (s.setSp p) = readStackReg ss s := by
  cases ss <;> rfl

theorem pushWord_setSp_congr {p q : Word} (h : p.toNat % 512 = q.toNat % 512) (r : Word) (o : Config.StackOrder)
    (v : Word) (s : State) : (pushWord o v (s.setSp p)).setSp r = (pushWord o v (s.setSp q)).setSp r := by
  have hdm : dmWrite (pushAddr o p) v s = dmWrite (pushAddr o q) v s := by rw [pushAddr_congr h]
  exact (congrArg (State.setSp r) hdm :)

theorem map_popWord_setSp_congr {p q : Word} (h : p.toNat % 512 = q.toNat % 512) (r : Word) (o : Config.StackOrder)
    (ss : StackReg) (s : State) :
    Result.map (State.setSp r) (popWord o (s.setSp p) (writePopped ss)) =
      Result.map (State.setSp r) (popWord o (s.setSp q) (writePopped ss)) := by
  simp only [popWord, State.setSp_sp, popAddr_congr h]
  exact map_withLoaded_congr rfl fun v => (respectsWrites_setSp r).writePopped ss v rfl rfl

/-- Two values of SP that agree modulo 512 give outcomes that agree but for SP. -/
theorem map_setSp_exec_congr (i : Instr) {p q : Word} (h : p.toNat % 512 = q.toNat % 512) (r : Word) (s : State) :
    Result.map (State.setSp r) (exec i (s.setSp p)) = Result.map (State.setSp r) (exec i (s.setSp q)) := by
  cases i with
  | psh ss =>
    have hpush := pushWord_setSp_congr h r Config.stackOrder (readStackReg ss s) s
    simp only [exec, execPsh, readStackReg_setSp]
    exact map_next_congr ((respectsWrites_setSp r).nextPc rfl hpush)
  | jmp ba =>
    have hpush := pushWord_setSp_congr h r Config.stackOrder s.pc s
    exact map_next_congr (congrArg (State.setPc (zextBa ba)) hpush)
  | pop ss => exact map_popWord_setSp_congr h r Config.stackOrder ss s
  | ret => exact map_popWord_setSp_congr h r Config.stackOrder .pc s
  | _ => exact map_setSp_exec_setSp rfl p q r s

/-- But for the pops, SP has no bearing on ACC, X, Y and PC. -/
theorem sameData_exec_setSp {i : Instr} {s t u : State} {p q : Word} (hpop : ∀ ss, i ≠ .pop ss) (hret : i ≠ .ret)
    (ht : exec i (s.setSp p) = .next t) (hu : exec i (s.setSp q) = .next u) : SameData u t ∧ t.pc = u.pc := by
  have of_not_uses (hi : usesSp i = false) : SameData u t ∧ t.pc = u.pc := by
    have h := map_setSp_exec_setSp hi p q 0 s
    rw [ht, hu] at h
    have htu : t.setSp 0 = u.setSp 0 := Host.Outcome.next.inj h
    exact ⟨⟨(congrArg State.acc htu :), (congrArg State.x htu :), (congrArg State.y htu :)⟩,
      (congrArg State.pc htu :)⟩
  cases i with
  | pop ss => exact absurd rfl (hpop ss)
  | ret => exact absurd rfl hret
  | psh | jmp => cases ht; cases hu; exact ⟨⟨rfl, rfl, rfl⟩, rfl⟩
  | _ => exact of_not_uses rfl

/-- Settles O49: what each instruction leaves in SP, and what SP's value has a bearing on. -/
theorem stackPointerRules : Obligations.StackPointerRules := by
  refine ⟨rfl, fun i s t h => ?_, fun i s p q r h => map_setSp_exec_congr i h r s,
    fun i s p q r hpsh hpop hjmp hret => ?_, fun i s t u p q hpop hret ht hu => ?_⟩
  · exact (exec_next_leaves h).sp
  · have hi : usesSp i = false := by
      cases i with
      | psh ss => exact absurd rfl (hpsh ss)
      | pop ss => exact absurd rfl (hpop ss)
      | jmp ba => exact absurd rfl (hjmp ba)
      | ret => exact absurd rfl hret
      | _ => rfl
    exact map_setSp_exec_setSp hi p q r s
  · obtain ⟨⟨hacc, hx, hy⟩, hpc⟩ := sameData_exec_setSp hpop hret ht hu
    exact ⟨hacc, hx, hy, hpc⟩

end Sys2Proof.Machine
end

section
/-! Where an instruction stops (60_exceptions.md R221, orders 4 and 5): each way of stopping is listed once, and an
instruction goes on or stops in a listed way. -/

namespace Sys2Proof.Machine

/-- The ways an instruction can stop. -/
inductive Stops : Instr → State → Fault → Prop where
  | load {i : Instr} {s : State} {a : BitVec 9} :
      loadAddress i s = some a → dmRead a s = none → Stops i s .uninitialisedRead
  | div {ra : Reg} {imm : BitVec 9} {s : State} :
      rightOperand ra imm s = 0 → Stops (.div ra imm) s .divideByZero
  | mod {ra : Reg} {imm : BitVec 9} {s : State} :
      rightOperand ra imm s = 0 → Stops (.mod ra imm) s .divideByZero
  | fct {ra : Reg} {s : State} : Stops (.fct ra 0) s .factorialOfZero

theorem aluDivision_of_right_zero {op : Word → Word → AluOut} {ra : Reg} {imm : BitVec 9} {s : State}
    (h : rightOperand ra imm s = 0) : aluDivision op ra imm s = .fault .divideByZero :=
  aluDivision_of_zero ((twoForm_right ra imm s).trans h)

theorem aluDivision_of_right_ne_zero {op : Word → Word → AluOut} {ra : Reg} {imm : BitVec 9} {s : State}
    (h : rightOperand ra imm s ≠ 0) : aluDivision op ra imm s = aluTwoForm op ra imm s :=
  aluDivision_of_ne_zero ((twoForm_right ra imm s).trans_ne h)

/-- An instruction that loads reads one word and stops where that holds no value. -/
theorem exec_of_loadAddress {i : Instr} {s : State} {a : BitVec 9} (hi : loadAddress i s = some a) :
    ∃ k, exec i s = withLoaded a s k := by
  cases i with
  | ldr | pop | ret => cases hi; exact ⟨_, rfl⟩
  | _ => cases hi

theorem exec_of_stops {i : Instr} {s : State} {f : Fault} (h : Stops i s f) : exec i s = .fault f := by
  cases h with
  | load ha hr =>
    obtain ⟨k, hk⟩ := exec_of_loadAddress ha
    exact hk.trans (withLoaded_of_none hr)
  | div h0 => exact aluDivision_of_right_zero h0
  | mod h0 => exact aluDivision_of_right_zero h0
  | fct => exact execFct_zero _ s

theorem exec_next_or_stops (i : Instr) (s : State) : (∃ t, exec i s = .next t) ∨ ∃ f, Stops i s f := by
  have of_load {a : BitVec 9} (ha : loadAddress i s = some a) : (∃ t, exec i s = .next t) ∨ ∃ f, Stops i s f := by
    obtain ⟨k, hk⟩ := exec_of_loadAddress ha
    cases hr : dmRead a s with
    | none => exact .inr ⟨_, .load ha hr⟩
    | some v => exact .inl ⟨_, hk.trans (withLoaded_of_some hr)⟩
  cases i with
  | ldr | pop | ret => exact of_load rfl
  | div ra imm =>
    by_cases h0 : rightOperand ra imm s = 0
    · exact .inr ⟨_, .div h0⟩
    · exact .inl ⟨_, aluDivision_of_right_ne_zero h0⟩
  | mod ra imm =>
    by_cases h0 : rightOperand ra imm s = 0
    · exact .inr ⟨_, .mod h0⟩
    · exact .inl ⟨_, aluDivision_of_right_ne_zero h0⟩
  | fct ra imm =>
    by_cases h0 : imm = 0
    · subst h0; exact .inr ⟨_, .fct⟩
    · exact .inl ⟨_, execFct_of_ne_zero h0⟩
  | _ => exact .inl ⟨_, rfl⟩

theorem exec_eq_fault_iff {i : Instr} {s : State} {f : Fault} : exec i s = .fault f ↔ Stops i s f := by
  refine ⟨fun h => ?_, exec_of_stops⟩
  rcases exec_next_or_stops i s with ⟨t, ht⟩ | ⟨g, hg⟩
  · cases h.symm.trans ht
  · cases h.symm.trans (exec_of_stops hg)
    exact hg

theorem stops_uninitialisedRead_iff {i : Instr} {s : State} :
    Stops i s .uninitialisedRead ↔ ∃ a, loadAddress i s = some a ∧ dmRead a s = none := by
  constructor
  · intro h
    cases h with
    | load ha hr => exact ⟨_, ha, hr⟩
  · exact fun ⟨_, ha, hr⟩ => .load ha hr

theorem stops_divideByZero_iff {i : Instr} {s : State} :
    Stops i s .divideByZero ↔ ∃ ra imm, (i = .div ra imm ∨ i = .mod ra imm) ∧ rightOperand ra imm s = 0 := by
  constructor
  · intro h
    cases h with
    | div h0 => exact ⟨_, _, .inl rfl, h0⟩
    | mod h0 => exact ⟨_, _, .inr rfl, h0⟩
  · rintro ⟨ra, imm, rfl | rfl, h0⟩
    · exact .div h0
    · exact .mod h0

theorem stops_factorialOfZero_iff {i : Instr} {s : State} : Stops i s .factorialOfZero ↔ ∃ ra, i = .fct ra 0 := by
  constructor
  · intro h
    cases h with
    | fct => exact ⟨_, rfl⟩
  · rintro ⟨ra, rfl⟩
    exact .fct

/-- Settles O53: an instruction goes on or stops in a listed way, and each listed way has its own fault. -/
theorem execStopsExactly : Obligations.ExecStopsExactly := by
  intro i s
  simp only [exec_eq_fault_iff]
  refine ⟨stops_uninitialisedRead_iff, stops_divideByZero_iff, stops_factorialOfZero_iff, ?_⟩
  refine (exec_next_or_stops i s).imp id fun ⟨f, hf⟩ => ?_
  cases hf with
  | load ha hr => exact .inl (.load ha hr)
  | div h0 => exact .inr (.inl (.div h0))
  | mod h0 => exact .inr (.inl (.mod h0))
  | fct => exact .inr (.inr .fct)

end Sys2Proof.Machine
end

section
/-! The end of a run (70_reset_and_hazards.md R262, R263): a run that has completed or stopped with a fault answers the
same for every greater number of steps, so it has one end. -/

namespace Sys2Proof.Machine

/-! ## A branch to itself -/

/-- At a branch to itself the word fetched is BRA with the address it stands at. -/
theorem ir_of_atEnd {s : State} (h : atEnd s = true) :
    s.pc.toNat = (pcIndex s.pc).toNat ∧ s.ir = some (branchWord 0x2800 (pcIndex s.pc)) := by
  rw [atEnd, Bool.and_eq_true, decide_eq_true_iff, decide_eq_true_iff] at h
  obtain ⟨hpc, hir⟩ := h
  have hidx : s.pc.toNat = (pcIndex s.pc).toNat := by
    rw [pcIndex, BitVec.toNat_setWidth, Nat.mod_eq_of_lt (by omega)]
  have hword : (pcIndex s.pc).setWidth 16 = s.pc := BitVec.eq_of_toNat_eq (by
    rw [BitVec.toNat_setWidth, ← hidx, Nat.mod_eq_of_lt s.pc.isLt])
  rw [branchWord, hword]
  exact ⟨hidx, hir⟩

theorem step_of_atEnd {s : State} (h : atEnd s = true) : step s = .next s := by
  obtain ⟨hpc, hir⟩ := ir_of_atEnd h
  obtain ⟨hdecode, -, hself⟩ := braResult (pcIndex s.pc) s
  rw [step_of_decode hir hdecode, hself hpc]

/-! ## Runs of more steps -/

section
variable {M : Host.Core} {s t : M.State} {j : Nat}

theorem run_succ_of_next (h : M.step s = .next t) (k : Nat) : M.run (k + 1) s = M.run k t := by
  rw [Host.Core.run, h]

theorem run_of_fixed_point (h : M.step s = .next s) (k : Nat) : M.run k s = .next s := by
  induction k with
  | zero => rfl
  | succ k ih => rw [run_succ_of_next h, ih]

/-- After `j` steps that go on, a run goes on from where they lead. -/
theorem run_add_of_next (h : M.run j s = .next t) (k : Nat) : M.run (j + k) s = M.run k t := by
  induction j generalizing s with
  | zero => cases h; rw [Nat.zero_add]
  | succ j ih =>
    obtain ⟨u, hu, ht⟩ := run_succ_eq_next.mp h
    rw [Nat.succ_add, run_succ_of_next hu, ih ht]

/-- A run that has stopped with a fault has stopped for good. -/
theorem run_add_of_fault {f : M.Fault} (h : M.run j s = .fault f) (k : Nat) : M.run (j + k) s = .fault f := by
  induction j generalizing s with
  | zero => cases h
  | succ j ih =>
    rw [Nat.succ_add]
    rw [Host.Core.run] at h ⊢
    cases hstep : M.step s with
    | next u => rw [hstep] at h; exact ih h
    | fault g => rw [hstep] at h; exact h
    | refused r => rw [hstep] at h; cases h

end

/-- Settles O58: the step at a branch to itself answers the state itself. -/
theorem endOfRunIsAFixedPoint : Obligations.EndOfRunIsAFixedPoint :=
  fun _ h => run_of_fixed_point (M := core) (step_of_atEnd h)

/-! ## One end -/

/-- From some number of steps on, a run from `s` answers `r`. -/
def RunEndsIn (s : State) (r : Result) : Prop := ∃ j, ∀ k, Host.Core.run core (j + k) s = r

theorem runEndsIn_of_completes {s t : State} (h : Completes s t) : RunEndsIn s (.next t) := by
  obtain ⟨j, hrun, hend⟩ := h
  exact ⟨j, fun k => (run_add_of_next hrun k).trans (endOfRunIsAFixedPoint t hend k)⟩

theorem runEndsIn_of_faultsWith {s : State} {f : Fault} (h : FaultsWith s f) : RunEndsIn s (.fault f) := by
  obtain ⟨j, hrun⟩ := h
  exact ⟨j, run_add_of_fault hrun⟩

/-- Two ends of a run are answered by the run of both their numbers of steps. -/
theorem runEndsIn_unique {s : State} {q r : Result} (hq : RunEndsIn s q) (hr : RunEndsIn s r) : q = r := by
  obtain ⟨j, hj⟩ := hq
  obtain ⟨k, hk⟩ := hr
  rw [← hj k, Nat.add_comm, hk j]

/-- Settles O59: completing in a state and stopping with a fault are ends of a run, and a run has one end. -/
theorem runHasOneEnd : Obligations.RunHasOneEnd := by
  refine ⟨fun s t u ht hu => ?_, fun s t f hf ht => ?_, fun s f g hf hg => ?_⟩
  · exact Host.Outcome.next.inj (runEndsIn_unique (runEndsIn_of_completes ht) (runEndsIn_of_completes hu))
  · cases runEndsIn_unique (runEndsIn_of_faultsWith hf) (runEndsIn_of_completes ht)
  · exact Host.Outcome.fault.inj (runEndsIn_unique (runEndsIn_of_faultsWith hf) (runEndsIn_of_faultsWith hg))

end Sys2Proof.Machine
end

section
/-! The control signals (30_encoding.md R74 to R76): at most one selects a register's input, and what an instruction
writes is what its signals select (20_memory.md R49, R50; 43_branch.md R138). -/

namespace Sys2Proof.Machine

/-! ## At most one input signal -/

/-- Of the signals ALU, MOV, L, TR at most one is 1, and of STACK_POP and BRA at most one. -/
def oneInputSignal (c : ControlSignals) : Bool :=
  decide ([c.alu, c.mov, c.load, c.tr].count true ≤ 1) && decide ([c.stackPop, c.bra].count true ≤ 1)

theorem oneInputSignal_selectReg (ra : Reg) (c : ControlSignals) :
    oneInputSignal (selectReg ra c) = oneInputSignal c := by
  cases ra <;> rfl

theorem oneInputSignal_selectStackReg (ss : StackReg) (c : ControlSignals) :
    oneInputSignal (selectStackReg ss c) = oneInputSignal c := by
  cases ss <;> rfl

/-- The signals of an ALU instruction, of FCT when FACT_END is 1: a result to its destination, and the flags. -/
def aluSignals (d : Dest) : ControlSignals :=
  { alu := true, flagSelect := true, accSelect := decide (d = .acc), xSelect := decide (d = .reg .x),
    ySelect := decide (d = .reg .y) }

theorem controlTwoForm_eq (ra : Reg) (imm : BitVec 9) :
    controlTwoForm ra imm = aluSignals (if imm = 0 then .acc else .reg ra) := by
  rw [controlTwoForm]
  split
  · rfl
  · cases ra <;> rfl

theorem controlUnary_eq (ra : Reg) : controlUnary ra = aluSignals (.reg ra) := by
  cases ra <;> rfl

theorem control_of_isAlu {i : Instr} (halu : isAlu i = true) (f : Flags) :
    control i true f = aluSignals (aluDest i) := by
  cases i with
  | add ra imm | sub ra imm | lsr ra imm | lsl ra imm | mul ra imm | div ra imm | mod ra imm | and ra imm
  | or ra imm | xor ra imm | rsr ra imm | rsl ra imm => exact controlTwoForm_eq ra imm
  | inc ra | dec ra | not ra | fct ra imm => exact controlUnary_eq ra
  | cmp ra imm => rfl
  | _ => cases halu

theorem oneInputSignal_control (i : Instr) (fe : Bool) (f : Flags) : oneInputSignal (control i fe f) = true := by
  cases i with
  | ldr ra | str ra | mov ra | inc ra | dec ra | not ra => exact oneInputSignal_selectReg ra _
  | psh ss | pop ss => exact oneInputSignal_selectStackReg ss _
  | fct ra imm =>
    cases fe with
    | false => rfl
    | true => exact oneInputSignal_selectReg ra _
  | trx | try_ | brz | brn | brc | bro | bra | cmp | nop | jmp | ret => rfl
  | add ra imm | sub ra imm | lsr ra imm | lsl ra imm | mul ra imm | div ra imm | mod ra imm | and ra imm
  | or ra imm | xor ra imm | rsr ra imm | rsl ra imm => exact congrArg oneInputSignal (controlTwoForm_eq ra imm)

/-- Where one signal is raised the signals before it in the multiplexer's order are not. -/
theorem signals_before_of_count : ∀ alu mov load tr : Bool, [alu, mov, load, tr].count true ≤ 1 →
    (mov = true → alu = false) ∧ (load = true → alu = false ∧ mov = false) ∧
    (tr = true → alu = false ∧ mov = false ∧ load = false) := by
  decide

/-- Settles O54: every instruction raises at most one input signal, and the multiplexer takes the input of the one
raised. -/
theorem atMostOneInputSignal : Obligations.AtMostOneInputSignal := by
  intro i fe f alu mov dm acc c
  have hone : oneInputSignal c = true := oneInputSignal_control i fe f
  rw [oneInputSignal, Bool.and_eq_true, decide_eq_true_iff, decide_eq_true_iff] at hone
  obtain ⟨hin, hpc⟩ := hone
  obtain ⟨hmov, hload, htr⟩ := signals_before_of_count _ _ _ _ hin
  refine ⟨hin, hpc, fun h => ?_, fun h => ?_, fun h => ?_, fun h => ?_⟩
  · simp [registerInput, h]
  · simp [registerInput, h, hmov h]
  · simp [registerInput, h, hload h]
  · simp [registerInput, htr h]

/-! ## The writes -/

theorem writeBack_acc (d : Dest) (o : AluOut) (s : State) :
    (writeBack d o s).acc = if d = .acc then o.res else s.acc := by
  cases d with
  | reg ra => cases ra <;> rfl
  | _ => rfl

theorem writeBack_x (d : Dest) (o : AluOut) (s : State) :
    (writeBack d o s).x = if d = .reg .x then o.res else s.x := by
  cases d with
  | reg ra => cases ra <;> rfl
  | _ => rfl

theorem writeBack_y (d : Dest) (o : AluOut) (s : State) :
    (writeBack d o s).y = if d = .reg .y then o.res else s.y := by
  cases d with
  | reg ra => cases ra <;> rfl
  | _ => rfl

/-- `t` is `s` after the writes that the signals `c` of an instruction with the fields `imm` and `ba` select, FLAGS
left out. -/
structure Selected (c : ControlSignals) (imm : BitVec 9) (ba : BitVec 10) (s t : State) (alu out : Word) : Prop where
  load : c.load = true → dmRead (dmAddress c imm s) s = some out
  acc : t.acc = if c.accSelect && !c.store then registerInput c alu (sextImm imm) out s.acc else s.acc
  x : t.x = if c.xSelect && !c.store then registerInput c alu (sextImm imm) out s.acc else s.x
  y : t.y = if c.ySelect && !c.store then registerInput c alu (sextImm imm) out s.acc else s.y
  pc : t.pc = if branchTaken c s.flags then zextBa ba else if c.pcSelect && c.stackPop then out + 2 else s.pc + 1
  store : c.store = true → dmRead (dmAddress c imm s) t = some (dmData c s)

theorem selected_of_isAlu {i : Instr} {s t : State} (halu : isAlu i = true) (h : exec i s = .next t) (imm : BitVec 9)
    (ba : BitVec 10) : ∃ alu out, Selected (control i true s.flags) imm ba s t alu out := by
  obtain ⟨o, u, k, rfl, -⟩ := writtenBack_of_isAlu halu h
  rw [control_of_isAlu halu]
  refine ⟨o.res, 0, nofun, ?_, ?_, ?_, writeBack_pc _ o s, nofun⟩
  · simp [aluSignals, registerInput, writeBack_acc]
  · simp [aluSignals, registerInput, writeBack_x]
  · simp [aluSignals, registerInput, writeBack_y]

/-- Signals that select no register, no data memory word and no popped PC. -/
def selectsNoData (c : ControlSignals) : Bool :=
  !(c.load || c.store || c.accSelect || c.xSelect || c.ySelect || c.stackPop)

theorem selected_branchIf {c : ControlSignals} {cond : Bool} (hc : selectsNoData c = true) (imm : BitVec 9)
    (ba : BitVec 10) {s : State} (hcond : branchTaken c s.flags = cond) (alu out : Word) :
    Selected c imm ba s (branchIf cond ba s) alu out := by
  simp only [selectsNoData, Bool.not_eq_true', Bool.or_eq_false_iff] at hc
  obtain ⟨⟨⟨⟨⟨hload, hstore⟩, hacc⟩, hx⟩, hy⟩, hpop⟩ := hc
  refine ⟨by simp [hload], ?_, ?_, ?_, ?_, by simp [hstore]⟩
  · simp [hacc]
  · simp [hx]
  · simp [hy]
  · simp [hcond, hpop]

/-- A load, move or transfer: R(RA) takes the value its multiplexer delivers. -/
theorem selected_writeReg {c : ControlSignals} (hc : selectsNoData { c with load := false } = true)
    (hbra : c.bra = false) (ra : Reg) {imm : BitVec 9} (ba : BitVec 10) {v alu out : Word} {s : State}
    (hv : registerInput c alu (sextImm imm) out s.acc = v)
    (hload : c.load = true → dmRead (dmAddress (selectReg ra c) imm s) s = some out) :
    Selected (selectReg ra c) imm ba s (nextPc (writeReg ra v s)) alu out := by
  simp only [selectsNoData, Bool.not_eq_true', Bool.or_eq_false_iff] at hc
  obtain ⟨⟨⟨⟨⟨-, hstore⟩, hacc⟩, hx⟩, hy⟩, hpop⟩ := hc
  subst hv
  cases ra with
  | x => exact ⟨hload, by simp [selectReg, hacc], by simp [selectReg, hstore, writeReg, registerInput],
      by simp [selectReg, hy, writeReg], by simp [selectReg, branchTaken, hbra, hpop], by simp [selectReg, hstore]⟩
  | y => exact ⟨hload, by simp [selectReg, hacc], by simp [selectReg, hx, writeReg],
      by simp [selectReg, hstore, writeReg, registerInput], by simp [selectReg, branchTaken, hbra, hpop],
      by simp [selectReg, hstore]⟩

theorem selected_str (ra : Reg) (imm : BitVec 9) (ba : BitVec 10) (s : State) (f : Flags) :
    Selected (control (.str ra imm) true f) imm ba s (nextPc (dmWrite imm (readReg ra s) s)) 0 0 := by
  have hword : dmRead imm (nextPc (dmWrite imm (readReg ra s) s)) = some (readReg ra s) :=
    dmRead_dmWrite_same imm (readReg ra s) s
  cases ra <;> exact ⟨nofun, rfl, rfl, rfl, rfl, fun _ => hword⟩

theorem selected_psh (ss : StackReg) (imm : BitVec 9) (ba : BitVec 10) (s : State) (f : Flags) :
    Selected (control (.psh ss) true f) imm ba s
      (nextPc (pushWord Config.stackOrder (readStackReg ss s) s)) 0 0 := by
  have hword : dmRead (pushAddr Config.stackOrder s.sp) (pushWord Config.stackOrder (readStackReg ss s) s) =
      some (readStackReg ss s) := dmRead_pushWord_same Config.stackOrder (readStackReg ss s) s
  cases ss <;> exact ⟨nofun, rfl, rfl, rfl, rfl, fun _ => hword⟩

theorem selected_pop (ss : StackReg) (imm : BitVec 9) (ba : BitVec 10) {s : State} {v : Word} (f : Flags)
    (hv : dmRead (popAddr Config.stackOrder s.sp) s = some v) :
    Selected (control (.pop ss) true f) imm ba s (writePopped ss v (s.setSp (s.sp + 1))) 0 v := by
  cases ss <;> exact ⟨fun _ => hv, rfl, rfl, rfl, rfl, nofun⟩

/-! The fields of a decoded word are the operands. -/

theorem immField_of_decode {op : BitVec 6} {i : Instr} {ra : Reg} {imm : BitVec 9} {w : Word}
    (hw : decode w = .ok i) (hi : encode i = [encodeFM op ra imm]) : immField w = imm := by
  cases hi.symm.trans (encodeOfDecode w i hw).2
  exact immField_encodeFM op ra imm

theorem baField_of_decode {op : BitVec 6} {i : Instr} {ba : BitVec 10} {w : Word}
    (hw : decode w = .ok i) (hi : encode i = [encodeFB op ba]) : baField w = ba := by
  cases hi.symm.trans (encodeOfDecode w i hw).2
  exact baField_encodeFB op ba

/-- What a decoded instruction that goes on has written is what its signals select. -/
theorem exists_selected {i : Instr} {w : Word} {s t : State} (hw : decode w = .ok i) (h : exec i s = .next t) :
    ∃ alu out, Selected (control i true s.flags) (immField w) (baField w) s t alu out := by
  cases i with
  | jmp | ret => cases (encodeOfDecode w _ hw).1
  | trx => cases h; exact ⟨0, 0, selected_writeReg (c := { tr := true }) rfl rfl .x _ rfl nofun⟩
  | try_ => cases h; exact ⟨0, 0, selected_writeReg (c := { tr := true }) rfl rfl .y _ rfl nofun⟩
  | mov ra imm =>
    cases h
    rw [immField_of_decode hw rfl]
    exact ⟨0, 0, selected_writeReg (c := { mov := true }) rfl rfl ra _ rfl nofun⟩
  | ldr ra imm =>
    obtain ⟨v, hv, rfl⟩ := withLoaded_eq_next.mp h
    rw [immField_of_decode hw rfl]
    have haddr : dmAddress (selectReg ra { load := true }) imm s = imm := by cases ra <;> rfl
    exact ⟨0, v, selected_writeReg (c := { load := true }) rfl rfl ra _ rfl
      fun _ => (congrArg (dmRead · s) haddr).trans hv⟩
  | str ra imm =>
    cases h
    rw [immField_of_decode hw rfl]
    exact ⟨0, 0, selected_str ra imm _ s s.flags⟩
  | psh ss => cases h; exact ⟨0, 0, selected_psh ss _ _ s s.flags⟩
  | pop ss =>
    obtain ⟨v, hv, rfl⟩ := popWord_eq_next.mp h
    exact ⟨0, v, selected_pop ss _ _ s.flags hv⟩
  | brz ba | brn ba | brc ba | bro ba =>
    cases h
    rw [baField_of_decode hw rfl]
    exact ⟨0, 0, selected_branchIf rfl _ ba (by simp [branchTaken, control]) 0 0⟩
  | bra ba =>
    cases h
    rw [baField_of_decode hw rfl]
    exact ⟨0, 0, selected_branchIf rfl _ ba rfl 0 0⟩
  | nop => cases h; exact ⟨0, 0, selected_branchIf (cond := false) rfl _ _ rfl 0 0⟩
  | _ => exact selected_of_isAlu rfl h _ _

theorem isAlu_eq_false_of_flagSelect {i : Instr} {f : Flags} (h : (control i true f).flagSelect = false) :
    isAlu i = false := by
  refine Bool.eq_false_iff.mpr fun halu => ?_
  rw [control_of_isAlu halu] at h
  cases h

/-- Settles O55: a decoded instruction writes what its signals select, and an instruction whose flag_select is 0 is
none of those that write FLAGS. -/
theorem controlSignalsSelectTheWrites : Obligations.ControlSignalsSelectTheWrites := by
  intro i w s t hw h c addr
  obtain ⟨alu, out, hsel⟩ := exists_selected hw h
  exact ⟨alu, out, hsel.load, hsel.acc, hsel.x, hsel.y, hsel.pc, hsel.store,
    fun hflag => (outsideWrites_flags (isAlu_eq_false_of_flagSelect hflag)).exec_next h⟩

end Sys2Proof.Machine
end

section
/-! The stack instructions (42_stack.md R120 to R122) and JMP, RET (43_branch.md R135, R136): a push stores at SP[8:0]
and lowers SP, a pop raises SP and reads there, and a pop after a push reads what it stored. -/

namespace Sys2Proof.Machine

/-! ## The words and the addresses -/

theorem stackWord_psh_eq_encodeFS (ss : StackReg) : stackWord 0x1000 ss = encodeFS 0b000100 ss := by
  cases ss <;> rfl

theorem stackWord_pop_eq_encodeFS (ss : StackReg) : stackWord 0x1400 ss = encodeFS 0b000101 ss := by
  cases ss <;> rfl

theorem decode_stackWord_psh (ss : StackReg) : decode (stackWord 0x1000 ss) = .ok (.psh ss) := by
  rw [stackWord_psh_eq_encodeFS, decode_psh]

theorem decode_stackWord_pop (ss : StackReg) : decode (stackWord 0x1400 ss) = .ok (.pop ss) := by
  rw [stackWord_pop_eq_encodeFS, decode_pop]

/-- A push stores at SP modulo 512 (D4). -/
theorem pushAddr_stackOrder (sp : Word) : pushAddr Config.stackOrder sp = BitVec.ofNat 9 (sp.toNat % 512) :=
  BitVec.eq_of_toNat_eq (by simp [Config.stackOrder, pushAddr, spIndex])

/-- A pop loads from SP + 1 modulo 512 (D4). -/
theorem popAddr_stackOrder (sp : Word) : popAddr Config.stackOrder sp = BitVec.ofNat 9 ((sp.toNat + 1) % 512) :=
  BitVec.eq_of_toNat_eq (by simp [Config.stackOrder, popAddr, spIndex])

/-! ## Pushes -/

/-- The push `v` has left: one word stored, SP one less, everything else but PC as before. -/
structure Pushed (v : Word) (s t : State) : Prop where
  word : dmRead (pushAddr Config.stackOrder s.sp) t = some v
  memories : SameMemoriesBut (pushAddr Config.stackOrder s.sp) s t
  sp : t.sp = s.sp - 1
  data : SameData s t
  flags : t.flags = s.flags
  unit : SameUnit s t

theorem pushed_setPc_pushWord (v pc : Word) (s : State) :
    Pushed v s ((pushWord Config.stackOrder v s).setPc pc) where
  word := dmRead_pushWord_same Config.stackOrder v s
  memories := ⟨fun _ hb => dmRead_pushWord_other Config.stackOrder v s hb, fun _ => rfl⟩
  sp := rfl
  data := ⟨rfl, rfl, rfl⟩
  flags := rfl
  unit := ⟨rfl, rfl⟩

theorem exec_psh (ss : StackReg) (s : State) :
    exec (.psh ss) s = .next ((pushWord Config.stackOrder (readStackReg ss s) s).setPc (s.pc + 1)) := rfl

theorem exec_jmp (ba : BitVec 10) (s : State) :
    exec (.jmp ba) s = .next ((pushWord Config.stackOrder s.pc s).setPc (zextBa ba)) := rfl

/-- Settles O19: PSH is a push of the selected register and PC + 1. -/
theorem pshResult : Obligations.PshResult := by
  intro ss s
  have h := pushed_setPc_pushWord (readStackReg ss s) (s.pc + 1) s
  rw [← pushAddr_stackOrder]
  exact ⟨decode_stackWord_psh ss, _, exec_psh ss s, h.word, h.memories, h.sp, h.data, rfl, h.flags, h.unit⟩

/-- Settles O25: JMP is a push of its own address and a write of PC. -/
theorem jmpResult : Obligations.JmpResult := by
  intro ba s
  have h := pushed_setPc_pushWord s.pc (zextBa ba) s
  rw [← pushAddr_stackOrder]
  exact ⟨_, exec_jmp ba s, h.word, h.memories, h.sp, zextBa_eq_ofNat ba, h.data, h.flags, h.unit⟩

/-! ## Pops -/

theorem exec_pop (ss : StackReg) (s : State) :
    exec (.pop ss) s = withLoaded (popAddr Config.stackOrder s.sp) s
      (fun v => writePopped ss v (s.setSp (s.sp + 1))) := rfl

theorem exec_pop_of_some {ss : StackReg} {s : State} {v : Word}
    (h : dmRead (popAddr Config.stackOrder s.sp) s = some v) :
    exec (.pop ss) s = .next (writePopped ss v (s.setSp (s.sp + 1))) :=
  (exec_pop ss s).trans (withLoaded_of_some h)

theorem sameMemories_writePopped (ss : StackReg) (v sp : Word) (s : State) :
    SameMemories s (writePopped ss v (s.setSp sp)) :=
  ⟨fun _ => dmRead_congr (writePopped_dm ss v _), fun _ => imRead_congr (writePopped_im ss v _)⟩

theorem sameUnit_writePopped (ss : StackReg) (v sp : Word) (s : State) : SameUnit s (writePopped ss v (s.setSp sp)) :=
  ⟨writePopped_fact ss v _, writePopped_draws ss v _⟩

/-- Settles O20: POP loads the word its address reads into the selected register, or stops. -/
theorem popResult : Obligations.PopResult := by
  intro ss s
  rw [← popAddr_stackOrder]
  refine ⟨decode_stackWord_pop ss, fun v hv => ?_, fun h => (exec_pop ss s).trans (withLoaded_of_none h)⟩
  exact ⟨_, exec_pop_of_some hv, writePopped_acc ss v _, writePopped_x ss v _, writePopped_y ss v _,
    writePopped_pc ss v _, writePopped_sp ss v _, writePopped_flags ss v _, sameMemories_writePopped ss v _ s,
    sameUnit_writePopped ss v _ s⟩

/-! ## A pop after a push -/

theorem popAddr_of_sp_eq {o : Config.StackOrder} {p q : Word} (h : p = q - 1) : popAddr o p = pushAddr o q :=
  h ▸ popAddr_after_push o q

theorem popWord_of_push {o : Config.StackOrder} {s u : State} {v : Word} (k : Word → State → State)
    (hsp : u.sp = s.sp - 1) (hword : dmRead (pushAddr o s.sp) u = some v) :
    popWord o u k = .next (k v (u.setSp s.sp)) := by
  have haddr : dmRead (popAddr o u.sp) u = some v := (popAddr_of_sp_eq hsp).symm ▸ hword
  have hback : u.sp + 1 = s.sp := by rw [hsp]; exact BitVec.sub_add_cancel s.sp 1
  rw [popWord, withLoaded_of_some haddr, hback]

/-- After a push of `v` by an instruction, a POP with the stack as the push left it takes `v`. -/
theorem exec_pop_of_pushed {q : StackReg} {s t u : State} {v : Word} (ht : Pushed v s t) (hsp : u.sp = t.sp)
    (hword : dmRead (pushAddr Config.stackOrder s.sp) u = dmRead (pushAddr Config.stackOrder s.sp) t) :
    exec (.pop q) u = .next (writePopped q v (u.setSp s.sp)) :=
  popWord_of_push (writePopped q) (hsp.trans ht.sp) (hword.trans ht.word)

theorem readStackReg_writePopped {q : StackReg} (hq : q ≠ .pc) (v : Word) (s : State) :
    readStackReg q (writePopped q v s) = v := by
  cases q with
  | pc => exact absurd rfl hq
  | _ => rfl

/-- Settles O21: the pop's address is the push's, under either order, and the word there is the pushed one. -/
theorem popReturnsWhatPshStored : Obligations.PopReturnsWhatPshStored := by
  refine ⟨fun o v s u k hsp hword => ?_, fun r q s t u hpsh hsp hword => ?_⟩
  · exact popWord_of_push k hsp (hword.trans (dmRead_pushWord_same o v s))
  · cases (exec_psh r s).symm.trans hpsh
    have hpop := exec_pop_of_pushed (q := q) (pushed_setPc_pushWord (readStackReg r s) (s.pc + 1) s) hsp hword
    refine ⟨_, hpop, writePopped_sp q _ _, fun hq => readStackReg_writePopped hq _ _, fun hq => ?_⟩
    rw [writePopped_pc, if_pos hq]

/-- Settles O26: RET is POP PC, which after a JMP takes the address JMP pushed. -/
theorem retReturnsAfterJmp : Obligations.RetReturnsAfterJmp := by
  refine ⟨fun s v hv => ?_, fun ba s t u hjmp hsp hword => ?_⟩
  · rw [← popAddr_stackOrder] at hv
    exact ⟨_, exec_pop_of_some (ss := .pc) hv, rfl, rfl, ⟨rfl, rfl, rfl⟩, rfl,
      sameMemories_writePopped .pc v _ s, sameUnit_writePopped .pc v _ s⟩
  · cases (exec_jmp ba s).symm.trans hjmp
    have hret := exec_pop_of_pushed (q := .pc) (pushed_setPc_pushWord s.pc (zextBa ba) s) hsp
      (hword _ (pushAddr_stackOrder s.sp))
    exact ⟨_, hret, rfl, rfl⟩

end Sys2Proof.Machine
end

section
/-! Signed numbers (00_scope.md R3): bit 15 is the sign, and the sign rules of 44_alu_common.md R144, R145 say that the
exact result lies outside what 16 bits hold. -/

namespace Sys2Proof.Machine

theorem getLsbD_15_eq_decide (v : Word) : v.getLsbD 15 = decide (v.toInt < 0) :=
  (BitVec.msb_eq_getLsbD_last v).symm.trans (BitVec.msb_eq_toInt)

theorem toInt_range (v : Word) : -32768 ≤ v.toInt ∧ v.toInt < 32768 :=
  ⟨BitVec.le_toInt v, BitVec.toInt_lt⟩

/-- The exact sum is `a + b`'s signed value, or that value's wrap of one sign or the other. -/
theorem toInt_add_cases (a b : Word) :
    (a + b).toInt = a.toInt + b.toInt ∨ (a + b).toInt = a.toInt + b.toInt - 65536 ∨
    (a + b).toInt = a.toInt + b.toInt + 65536 := by
  have h := toInt_range a
  have h' := toInt_range b
  rw [BitVec.toInt_add, Int.bmod_def]
  omega

theorem toInt_sub_cases (a b : Word) :
    (a - b).toInt = a.toInt - b.toInt ∨ (a - b).toInt = a.toInt - b.toInt - 65536 ∨
    (a - b).toInt = a.toInt - b.toInt + 65536 := by
  have h := toInt_range a
  have h' := toInt_range b
  rw [BitVec.toInt_sub, Int.bmod_def]
  omega

theorem addOverflow_iff (a b : Word) :
    addOverflow a b (a + b) = true ↔ a.toInt + b.toInt < -32768 ∨ a.toInt + b.toInt > 32767 := by
  have ha := toInt_range a
  have hb := toInt_range b
  have hsum := toInt_range (a + b)
  have hcases := toInt_add_cases a b
  rw [addOverflow_eq_decide, decide_eq_true_iff]
  simp only [getLsbD_15_eq_decide, decide_eq_decide, ne_eq]
  omega

theorem subOverflow_eq_decide (a b : Word) :
    subOverflow a b (a - b) = decide (a.toInt - b.toInt < -32768 ∨ a.toInt - b.toInt > 32767) := by
  have ha := toInt_range a
  have hb := toInt_range b
  have hdiff := toInt_range (a - b)
  have hcases := toInt_sub_cases a b
  rw [Bool.eq_iff_iff, subOverflow, decide_eq_true_iff]
  simp only [getLsbD_15_eq_decide, Bool.and_eq_true, bne_iff_ne, ne_eq, decide_eq_decide]
  omega

/-- The sign of a difference differs from its overflow exactly where the exact difference is negative. -/
theorem sub_sign_ne_overflow_iff (a b : Word) :
    (a - b).getLsbD 15 ≠ subOverflow a b (a - b) ↔ a.toInt < b.toInt := by
  have ha := toInt_range a
  have hb := toInt_range b
  have hdiff := toInt_range (a - b)
  have hcases := toInt_sub_cases a b
  rw [subOverflow_eq_decide, getLsbD_15_eq_decide, ne_eq, decide_eq_decide]
  omega

end Sys2Proof.Machine
end

section
/-! The ALU instructions (45_alu_arith.md, 46_alu_logic_shift.md): each is the write-back of one ALU operation, whose
result and flags are stated here in exact arithmetic or bit by bit. -/

namespace Sys2Proof.Machine

/-! ## The classes of ALU instruction -/

theorem twoForm_result {op : Word → Word → AluOut} {ra : Reg} {imm : BitVec 9} {s : State} {z n c v : Bool}
    (hflags : (op (leftOperand ra imm s) (rightOperand ra imm s)).flags = ⟨z, n, c, v⟩) :
    ∃ t, aluTwoForm op ra imm s = .next t ∧
      TwoFormWrite ra imm (op (leftOperand ra imm s) (rightOperand ra imm s)).res s t ∧ AluFrame z n c v s t :=
  ⟨_, aluTwoForm_eq_operands op ra imm s, twoFormWrite_writeBack ra imm _ s, aluFrame_writeBack hflags _ s⟩

theorem onlyReg_writeBack (ra : Reg) (o : AluOut) (s : State) : OnlyReg ra o.res s (writeBack (.reg ra) o s) :=
  ⟨readReg_writeBack_same ra o s, readReg_writeBack_other (otherReg_ne ra) o s, writeBack_reg_acc ra o s⟩

theorem unary_result {op : Word → AluOut} {ra : Reg} {s : State} {z n c v : Bool}
    (hflags : (op (readReg ra s)).flags = ⟨z, n, c, v⟩) :
    ∃ t, aluUnary op ra s = .next t ∧ OnlyReg ra (op (readReg ra s)).res s t ∧ AluFrame z n c v s t :=
  ⟨_, rfl, onlyReg_writeBack ra _ s, aluFrame_writeBack hflags _ s⟩

/-! ## Addition -/

/-- Settles O28: the flags of ADD and of INC are those of the ALU's sum of the operands. -/
theorem additionCarryAndOverflow : Obligations.AdditionCarryAndOverflow := by
  intro ra s t a b res h hres
  have hflags : t.flags = addFlags a b res := by
    rw [hres, ← add_eq_ofNat_mod]
    rcases h with ⟨imm, hadd, rfl, rfl⟩ | ⟨hinc, rfl, rfl⟩
    · cases (aluTwoForm_eq_operands aluAdd ra imm s).symm.trans hadd
      exact writeBack_flags _ _ s
    · cases hinc
      exact writeBack_flags _ _ s
  rw [hflags]
  refine ⟨decide_eq_true_iff, ?_, ?_⟩
  · show addOverflow a b res = true ↔ _
    rw [addOverflow_eq_decide, decide_eq_true_iff]
  · rw [hres, ← add_eq_ofNat_mod]
    exact addOverflow_iff a b

/-! ## Subtraction and comparison -/

theorem sub_eq_ofInt (a b : Word) : a - b = BitVec.ofInt 16 (a.toNat - b.toNat) := by
  apply BitVec.eq_of_toNat_eq
  rw [BitVec.toNat_sub, BitVec.toNat_ofInt]
  omega

theorem aluSub_flags (a b : Word) :
    (aluSub a b).flags =
      ⟨decide (a - b = 0), (a - b).getLsbD 15, decide (a.toNat < b.toNat),
        decide (a.toInt - b.toInt < -32768 ∨ a.toInt - b.toInt > 32767)⟩ := by
  rw [← subOverflow_eq_decide]
  rfl

/-- Settles O29: SUB is the write-back of the ALU's difference, the exact one modulo 2^16. -/
theorem subResult : Obligations.SubResult := by
  rintro ra imm s a b res rfl rfl hres
  rw [← sub_eq_ofInt] at hres
  subst hres
  exact ⟨decode_immWord_of_encode (op := 0b001110) rfl rfl, twoForm_result (op := aluSub) (aluSub_flags _ _)⟩

theorem exec_cmp (ra : Reg) (imm : BitVec 9) (s : State) :
    exec (.cmp ra imm) s =
      .next (writeBack .none (aluSub (leftOperand ra imm s) (rightOperand ra imm s)) s) := by
  rw [← twoForm_left, ← twoForm_right]
  rfl

/-- Settles O33: CMP writes the flags of the difference and no register, and those flags compare the operands. -/
theorem cmpResult : Obligations.CmpResult := by
  rintro ra imm s a b rfl rfl
  refine ⟨decode_immWord_of_encode (op := 0b010100) rfl rfl, _, exec_cmp ra imm s, ⟨rfl, rfl, rfl⟩, rfl, rfl,
    sameMemories_writeBack _ _ s, ⟨rfl, rfl⟩, ?_⟩
  rw [writeBack_flags]
  refine ⟨?_, decide_eq_true_iff, sub_sign_ne_overflow_iff _ _, ?_⟩
  · exact decide_eq_true_iff.trans sub_eq_zero
  · rw [aluSub_flags, decide_eq_true_iff]

/-- Settles O34: SUB and CMP write back one result, SUB to a register of ACC, X, Y and CMP to none. -/
theorem cmpIsSubWithoutResult : Obligations.CmpIsSubWithoutResult := by
  intro ra imm s t h
  cases (aluTwoForm_eq_operands aluSub ra imm s).symm.trans h
  rw [exec_cmp]
  generalize aluSub _ _ = o
  cases (twoForm ra imm s).dest with
  | reg rb => cases rb <;> rfl
  | _ => rfl

/-! ## Increment and decrement -/

theorem addCarry_one (a : Word) : addCarry a 1 = decide (a = 0xFFFF) := by
  have ha := a.isLt
  rw [addCarry, decide_eq_decide, ← BitVec.toNat_inj]
  change a.toNat + 1 > 65535 ↔ a.toNat = 65535
  omega

theorem addOverflow_one (a : Word) : addOverflow a 1 (a + 1) = decide (a = 0x7FFF) := by
  have ha := toInt_range a
  rw [Bool.eq_iff_iff, addOverflow_iff, decide_eq_true_iff, ← BitVec.toInt_inj]
  change a.toInt + 1 < -32768 ∨ a.toInt + 1 > 32767 ↔ a.toInt = 32767
  omega

theorem aluAdd_one_flags (a : Word) :
    (aluAdd a 1).flags =
      ⟨decide (a + 1 = 0), (a + 1).getLsbD 15, decide (a = 0xFFFF), decide (a = 0x7FFF)⟩ := by
  rw [← addCarry_one, ← addOverflow_one]
  rfl

theorem lt_one_iff_eq_zero (a : Word) : a.toNat < (1 : Word).toNat ↔ a = 0 := by
  rw [← BitVec.toNat_inj]
  exact Nat.lt_one_iff

theorem sub_one_overflow_iff (a : Word) :
    (a.toInt - (1 : Word).toInt < -32768 ∨ a.toInt - (1 : Word).toInt > 32767) ↔ a = 0x8000 := by
  have ha := toInt_range a
  rw [← BitVec.toInt_inj]
  change a.toInt - 1 < -32768 ∨ a.toInt - 1 > 32767 ↔ a.toInt = -32768
  omega

theorem aluSub_one_flags (a : Word) :
    (aluSub a 1).flags =
      ⟨decide (a - 1 = 0), (a - 1).getLsbD 15, decide (a = 0), decide (a = 0x8000)⟩ := by
  simp only [aluSub_flags, lt_one_iff_eq_zero, sub_one_overflow_iff]

theorem sub_one_eq_ofNat_mod (a : Word) : a - 1 = BitVec.ofNat 16 ((a.toNat + 65535) % 65536) := by
  apply BitVec.eq_of_toNat_eq
  rw [BitVec.toNat_sub, BitVec.toNat_ofNat]
  change (65536 - 1 + a.toNat) % 65536 = (a.toNat + 65535) % 65536 % 65536
  omega

/-- Settles O35: INC and DEC are the unary write-backs of a sum and a difference with 1. -/
theorem incDecResults : Obligations.IncDecResults := by
  rintro ra s a up down rfl hup hdown
  rw [← add_one_eq_ofNat_mod] at hup
  rw [← sub_one_eq_ofNat_mod] at hdown
  subst hup hdown
  refine ⟨⟨decode_regWord_of_encode (op := 0b010101) rfl rfl, decode_regWord_of_encode (op := 0b010110) rfl rfl⟩,
    ?_, ?_⟩
  · exact unary_result (op := (aluAdd · 1)) (aluAdd_one_flags _)
  · exact unary_result (op := (aluSub · 1)) (aluSub_one_flags _)

/-! ## Multiplication and division -/

theorem mul_eq_ofNat_mod (a b : Word) : a * b = BitVec.ofNat 16 (a.toNat * b.toNat % 65536) :=
  BitVec.eq_of_toNat_eq (by simp)

/-- Settles O30: MUL is the write-back of the ALU's product, the exact one modulo 2^16. -/
theorem mulResult : Obligations.MulResult := by
  rintro ra imm s a b res rfl rfl hres
  rw [← mul_eq_ofNat_mod] at hres
  subst hres
  exact ⟨decode_immWord_of_encode (op := 0b010001) rfl rfl, twoForm_result (op := aluMul) rfl⟩

theorem division_result {op : Word → Word → AluOut} {ra : Reg} {imm : BitVec 9} {s : State} {z n c v : Bool}
    (h0 : rightOperand ra imm s ≠ 0)
    (hflags : (op (leftOperand ra imm s) (rightOperand ra imm s)).flags = ⟨z, n, c, v⟩) :
    ∃ t, aluDivision op ra imm s = .next t ∧
      TwoFormWrite ra imm (op (leftOperand ra imm s) (rightOperand ra imm s)).res s t ∧ AluFrame z n c v s t := by
  rw [aluDivision_of_right_ne_zero h0]
  exact twoForm_result hflags

/-- Settles O31: DIV and MOD write back the unsigned quotient and remainder, or stop on a right operand of 0. -/
theorem divModResults : Obligations.DivModResults := by
  rintro ra imm s a b q r rfl rfl rfl rfl
  refine ⟨⟨decode_immWord_of_encode (op := 0b010010) rfl rfl, decode_immWord_of_encode (op := 0b010011) rfl rfl⟩,
    fun h0 => ⟨?_, ?_⟩, fun h0 => ⟨aluDivision_of_right_zero h0, aluDivision_of_right_zero h0⟩⟩
  · exact division_result (op := aluDiv) h0 rfl
  · exact division_result (op := aluMod) h0 rfl

/-- Settles O32: where both signs are 0 the signed operations are the unsigned ones. -/
theorem divisionReadingsAgree : Obligations.DivisionReadingsAgree := by
  intro a b ha hb _
  rw [← BitVec.msb_eq_getLsbD_last (w := 16)] at ha hb
  have hq : a.sdiv b = a / b := by rw [BitVec.sdiv_eq, ha, hb]; rfl
  have hr : a.srem b = a % b := by rw [BitVec.srem_eq, ha, hb]
  exact ⟨hq.trans BitVec.udiv_def, hr.trans BitVec.umod_def⟩

/-! ## Logic -/

/-- Settles O36: AND, OR and XOR write back the operation of each bit. -/
theorem logicResults : Obligations.LogicResults := by
  rintro ra imm s a b rfl rfl
  refine ⟨⟨decode_immWord_of_encode (op := 0b010111) rfl rfl, decode_immWord_of_encode (op := 0b011000) rfl rfl,
    decode_immWord_of_encode (op := 0b011001) rfl rfl⟩, ?_, ?_, ?_⟩
  · obtain ⟨t, ht, hwrite, hframe⟩ := twoForm_result (op := aluAnd) (ra := ra) (imm := imm) (s := s) rfl
    exact ⟨t, _, ht, hwrite, fun _ => BitVec.getLsbD_and, hframe⟩
  · obtain ⟨t, ht, hwrite, hframe⟩ := twoForm_result (op := aluOr) (ra := ra) (imm := imm) (s := s) rfl
    exact ⟨t, _, ht, hwrite, fun _ => BitVec.getLsbD_or, hframe⟩
  · obtain ⟨t, ht, hwrite, hframe⟩ := twoForm_result (op := aluXor) (ra := ra) (imm := imm) (s := s) rfl
    exact ⟨t, _, ht, hwrite, fun _ => BitVec.getLsbD_xor, hframe⟩

/-- Settles O37: NOT writes back the complement. -/
theorem notResult : Obligations.NotResult := by
  intro ra s
  obtain ⟨t, ht, hreg, hframe⟩ := unary_result (op := aluNot) (ra := ra) (s := s) rfl
  refine ⟨decode_regWord_of_encode (op := 0b011010) rfl rfl, t, _, ht, hreg, fun k hk => ?_, hframe⟩
  exact (BitVec.getLsbD_not).trans (by simp [hk])

/-- The immediate -1 extends to sixteen ones. -/
theorem sextImm_neg_one : sextImm 0x1FF = BitVec.allOnes 16 := by decide

theorem aluXor_allOnes (a : Word) : aluXor a (BitVec.allOnes 16) = aluNot a := by
  rw [aluXor, aluNot, BitVec.xor_allOnes]

/-- Settles O38: the two instructions write back the same result and flags to the same register. -/
theorem notIsXorMinusOne : Obligations.NotIsXorMinusOne := by
  intro ra s
  have hform : twoForm ra 0x1FF s = ⟨readReg ra s, BitVec.allOnes 16, .reg ra⟩ := by
    rw [twoForm_imm (by decide), sextImm_neg_one]
  calc exec (.not ra) s = .next (writeBack (.reg ra) (aluNot (readReg ra s)) s) := rfl
    _ = .next (writeBack (.reg ra) (aluXor (readReg ra s) (BitVec.allOnes 16)) s) := by rw [aluXor_allOnes]
    _ = aluTwoForm aluXor ra 0x1FF s := by rw [aluTwoForm_eq, hform]

/-! ## Shifts -/

theorem two_pow_sixteen_le {n : Nat} (h : ¬ n < 16) : 2 ^ 16 ≤ 2 ^ n :=
  Nat.pow_le_pow_right (by decide) (Nat.le_of_not_lt h)

theorem shiftRight_eq_ofNat (a b : Word) : shiftRight a b = BitVec.ofNat 16 (a.toNat / 2 ^ b.toNat) := by
  rw [shiftRight]
  split
  case isTrue =>
    rw [← Nat.shiftRight_eq_div_pow, ← BitVec.toNat_ushiftRight, BitVec.ofNat_toNat, BitVec.setWidth_eq]
  case isFalse h => rw [Nat.div_eq_of_lt (a.isLt.trans_le (two_pow_sixteen_le h))]; rfl

theorem shiftLeft_eq_ofNat (a b : Word) : shiftLeft a b = BitVec.ofNat 16 (a.toNat * 2 ^ b.toNat % 65536) := by
  rw [shiftLeft]
  split
  case isTrue =>
    apply BitVec.eq_of_toNat_eq
    rw [BitVec.toNat_shiftLeft, Nat.shiftLeft_eq]
    simp
  case isFalse h =>
    have hdvd : 65536 ∣ a.toNat * 2 ^ b.toNat :=
      (Nat.pow_dvd_pow 2 (Nat.le_of_not_lt h)).mul_left a.toNat
    rw [Nat.mod_eq_zero_of_dvd hdvd]
    rfl

/-- Settles O39: LSR and LSL write back the shifted operand, which is the exact quotient or product. -/
theorem shiftResults : Obligations.ShiftResults := by
  rintro ra imm s a b right left rfl rfl hright hleft
  rw [← shiftRight_eq_ofNat] at hright
  rw [← shiftLeft_eq_ofNat] at hleft
  subst hright hleft
  refine ⟨⟨decode_immWord_of_encode (op := 0b001111) rfl rfl, decode_immWord_of_encode (op := 0b010000) rfl rfl⟩,
    fun h => ⟨if_neg (Nat.not_lt.mpr h), if_neg (Nat.not_lt.mpr h)⟩, ?_, ?_⟩
  · exact twoForm_result (op := aluLsr) rfl
  · exact twoForm_result (op := aluLsl) rfl

/-! ## Rotates -/

theorem rotateCount_lt (b : Word) : rotateCount b < 16 := Nat.mod_lt _ (by decide)

theorem getLsbD_rotateRight (a b : Word) {k : Nat} (hk : k < 16) :
    (rotateRight a b).getLsbD k = a.getLsbD ((k + rotateCount b) % 16) := by
  have hn := rotateCount_lt b
  rw [rotateRight, BitVec.getLsbD_or, BitVec.getLsbD_ushiftRight, BitVec.getLsbD_shiftLeft]
  by_cases h : k + rotateCount b < 16
  · rw [Nat.mod_eq_of_lt h]
    simp [show k < 16 - rotateCount b by omega, Nat.add_comm]
  · rw [Nat.mod_eq_sub_mod (Nat.le_of_not_lt h), Nat.mod_eq_of_lt (by omega),
      BitVec.getLsbD_of_ge a (rotateCount b + k) (by omega)]
    simp [hk, show ¬ k < 16 - rotateCount b by omega,
      show k - (16 - rotateCount b) = k + rotateCount b - 16 by omega]

theorem getLsbD_rotateLeft (a b : Word) {k : Nat} (hk : k < 16) :
    (rotateLeft a b).getLsbD ((k + rotateCount b) % 16) = a.getLsbD k := by
  have hn := rotateCount_lt b
  rw [rotateLeft, BitVec.getLsbD_or, BitVec.getLsbD_ushiftRight, BitVec.getLsbD_shiftLeft]
  by_cases h : k + rotateCount b < 16
  · rw [Nat.mod_eq_of_lt h, BitVec.getLsbD_of_ge a (16 - rotateCount b + _) (by omega)]
    simp [h]
  · rw [Nat.mod_eq_sub_mod (Nat.le_of_not_lt h), Nat.mod_eq_of_lt (by omega)]
    simp [show k + rotateCount b - 16 < rotateCount b by omega,
      show 16 - rotateCount b + (k + rotateCount b - 16) = k by omega]

/-- Settles O40: RSR and RSL write back the rotated operand, every bit of it moved round by the count. -/
theorem rotateResults : Obligations.RotateResults := by
  rintro ra imm s a b rfl rfl
  refine ⟨⟨decode_immWord_of_encode (op := 0b011011) rfl rfl, decode_immWord_of_encode (op := 0b011100) rfl rfl⟩,
    ?_, ?_⟩
  · obtain ⟨t, ht, hwrite, hframe⟩ := twoForm_result (op := aluRsr) (ra := ra) (imm := imm) (s := s) rfl
    exact ⟨t, _, ht, hwrite, fun _ => getLsbD_rotateRight _ _, hframe⟩
  · obtain ⟨t, ht, hwrite, hframe⟩ := twoForm_result (op := aluRsl) (ra := ra) (imm := imm) (s := s) rfl
    exact ⟨t, _, ht, hwrite, fun _ => getLsbD_rotateLeft _ _, hframe⟩

theorem rotateLeft_rotateRight (a b : Word) : rotateLeft (rotateRight a b) b = a := by
  apply BitVec.eq_of_getLsbD_eq
  intro k hk
  have hn := rotateCount_lt b
  have hpos : (k + (16 - rotateCount b)) % 16 < 16 := Nat.mod_lt _ (by decide)
  have hround : ((k + (16 - rotateCount b)) % 16 + rotateCount b) % 16 = k := by omega
  calc (rotateLeft (rotateRight a b) b).getLsbD k
      = (rotateRight a b).getLsbD ((k + (16 - rotateCount b)) % 16) := by
        rw [← getLsbD_rotateLeft _ b hpos, hround]
    _ = a.getLsbD k := by rw [getLsbD_rotateRight a b hpos, hround]

/-- Settles O41: the second rotate reads the register the first wrote, with the same count. -/
theorem rotateLeftUndoesRotateRight : Obligations.RotateLeftUndoesRotateRight := by
  intro ra imm s t himm h
  have hform (op : Word → Word → AluOut) (u : State) :
      aluTwoForm op ra imm u = .next (writeBack (.reg ra) (op (readReg ra u) (sextImm imm)) u) := by
    rw [aluTwoForm_eq, twoForm_imm himm]
  cases (hform aluRsr s).symm.trans h
  refine ⟨_, hform aluRsl _, ?_, ?_, ?_⟩
  · rw [readReg_writeBack_same, readReg_writeBack_same]
    exact rotateLeft_rotateRight _ _
  · rw [readReg_writeBack_other (otherReg_ne ra), readReg_writeBack_other (otherReg_ne ra)]
  · rw [writeBack_reg_acc, writeBack_reg_acc]

end Sys2Proof.Machine
end

section
/-! The factorial unit and FCT (47_factorial.md): after `k` cycles the unit holds the falling factorial of `n`, so the
product FCT writes is `n!` modulo 2^16. -/

namespace Sys2Proof.Machine

/-! ## The unit's cycles -/

/-- The unit `k` cycles after the timer was loaded with `n`. -/
structure AfterCycles (n k : Nat) (u : FactUnit) : Prop where
  cnt : u.cnt.toNat = n - k
  reg : u.reg = BitVec.ofNat 16 (n.descFactorial k)
  running : u.running = true

theorem afterCycles_factLoad (n : BitVec 9) {u : FactUnit} (hu : u.reg = 1) :
    AfterCycles n.toNat 0 (factLoad n u) :=
  ⟨rfl, hu, rfl⟩

theorem AfterCycles.factProduct {n k : Nat} {u : FactUnit} (h : AfterCycles n k u) :
    factProduct u = BitVec.ofNat 16 (n.descFactorial (k + 1)) := by
  rw [Machine.factProduct, ← BitVec.ofNat_toNat, h.cnt, h.reg, Nat.descFactorial_succ, BitVec.ofNat_mul]

theorem AfterCycles.factCycle {n k : Nat} {u : FactUnit} (h : AfterCycles n k u) (hk : k < n) :
    AfterCycles n (k + 1) (factCycle u) where
  cnt := by
    have hcnt := h.cnt
    change (u.cnt - 1).toNat = n - (k + 1)
    bv_omega
  reg := h.factProduct
  running := h.running

theorem afterCycles_iterate (n : BitVec 9) {u : FactUnit} (hu : u.reg = 1) {k : Nat} (hk : k ≤ n.toNat) :
    AfterCycles n.toNat k (factCycle^[k] (factLoad n u)) := by
  induction k with
  | zero => exact afterCycles_factLoad n hu
  | succ k ih =>
    rw [Function.iterate_succ_apply']
    exact (ih (Nat.le_of_succ_le hk)).factCycle hk

theorem AfterCycles.factEnd_iff {n k : Nat} {u : FactUnit} (h : AfterCycles n k u) (hk : k < n) :
    factEnd u = true ↔ k = n - 1 := by
  rw [Machine.factEnd_iff, ← BitVec.toNat_inj, h.cnt]
  change n - k = 1 ↔ k = n - 1
  omega

/-- Settles O44: what the unit holds and whether FACT_END is raised after each number of cycles below `n`. -/
theorem factorialUnitCycles : Obligations.FactorialUnitCycles := fun n _ _ hu hk =>
  have h := afterCycles_iterate n hu hk.le
  ⟨h.cnt, h.reg, h.running, h.factEnd_iff hk⟩

/-! ## The result -/

/-- Cycling until FACT_END takes `j` cycles when FACT_END is raised after `j` and not before. -/
theorem factRun_eq_iterate {j fuel : Nat} {u : FactUnit} (hfuel : j ≤ fuel)
    (hbefore : ∀ i < j, factEnd (factCycle^[i] u) = false) (hend : factEnd (factCycle^[j] u) = true) :
    factRun fuel u = factCycle^[j] u := by
  induction j generalizing fuel u with
  | zero =>
    cases fuel with
    | zero => rfl
    | succ fuel => exact if_pos hend
  | succ j ih =>
    obtain ⟨fuel, rfl⟩ := Nat.exists_eq_add_one_of_ne_zero (Nat.ne_zero_of_lt hfuel)
    have hgo : factEnd u = false := hbefore 0 (Nat.succ_pos j)
    rw [factRun, hgo, if_neg Bool.false_ne_true]
    exact ih (Nat.le_of_succ_le_succ hfuel) (fun i hi => hbefore (i + 1) (Nat.succ_lt_succ hi)) hend

theorem factResult_eq_ofNat_factorial {imm : BitVec 9} (himm : imm ≠ 0) {u : FactUnit} (hu : u.reg = 1) :
    factResult imm u = BitVec.ofNat 16 (imm.toNat.factorial % 65536) := by
  have hpos : 0 < imm.toNat := Nat.pos_of_ne_zero fun h => himm (BitVec.eq_of_toNat_eq h)
  have hcycles {k : Nat} (hk : k < imm.toNat) := afterCycles_iterate imm hu hk.le
  have hlast : imm.toNat - 1 < imm.toNat := Nat.sub_lt hpos Nat.one_pos
  have hrun : factRun 510 (factLoad imm u) = factCycle^[imm.toNat - 1] (factLoad imm u) := by
    refine factRun_eq_iterate (by have := imm.isLt; omega) (fun i hi => ?_) ?_
    · have hin := hi.trans hlast
      exact Bool.eq_false_iff.mpr fun h => hi.ne (((hcycles hin).factEnd_iff hin).mp h)
    · exact ((hcycles hlast).factEnd_iff hlast).mpr rfl
  rw [factResult, hrun, (hcycles hlast).factProduct, Nat.sub_add_cancel hpos, Nat.descFactorial_self]
  exact BitVec.eq_of_toNat_eq (by simp)

theorem onlyReg_setFact_setDraws {ra : Reg} {v : Word} {s t : State} (h : OnlyReg ra v s t) (u : FactUnit) (k : Nat) :
    OnlyReg ra v s ((t.setFact u).setDraws k) := by
  cases ra <;> exact h

/-- Settles O42: FCT writes the unit's product back, which is the factorial, and puts the unit at rest. -/
theorem fctResult : Obligations.FctResult := by
  rintro ra imm s res hu hres
  refine ⟨decode_immWord_of_encode (op := 0b011101) rfl rfl, fun himm => ?_, fun himm => ?_⟩
  · have hexec := execFct_of_ne_zero (ra := ra) (s := s) himm
    rw [factResult_eq_ofNat_factorial himm hu, ← hres] at hexec
    have hflags := writeBack_flags (.reg ra) { res := res, flags := fctFlags s.draws res } s
    exact ⟨_, hexec, onlyReg_setFact_setDraws (onlyReg_writeBack ra _ s) _ _,
      (congrArg Flags.z hflags :), (congrArg Flags.n hflags :),
      writeBack_pc (.reg ra) _ s, writeBack_sp (.reg ra) _ s, sameMemories_writeBack (.reg ra) _ s, rfl, rfl⟩
  · subst himm
    exact execFct_zero ra s

/-! ## The table -/

/-- 16 factors of 2 are among the factors of `n!` from 18 on. -/
theorem factorial_mod_eq_zero {n : Nat} (h : 18 ≤ n) : n.factorial % 65536 = 0 := by
  have h18 : 65536 ∣ Nat.factorial 18 := by decide
  exact Nat.mod_eq_zero_of_dvd (h18.trans (Nat.factorial_dvd_factorial h))

/-- Settles O43: FctResult's factorials, evaluated for 1 to 17 and 0 by divisibility from 18 on. -/
theorem fctTable : Obligations.FctTable := by
  intro ra s hu
  have hfct {imm : BitVec 9} (himm : imm ≠ 0) := (fctResult ra imm s _ hu rfl).2.1 himm
  constructor
  · intro p hp
    have hrow : p.1 ≠ 0 ∧ BitVec.ofNat 16 (p.1.toNat.factorial % 65536) = p.2 := by
      revert p
      simp [Nat.factorial]
    obtain ⟨t, ht, ⟨hreg, -⟩, -⟩ := hfct hrow.1
    exact ⟨t, ht, hreg.trans hrow.2⟩
  · intro imm h18
    have himm : imm ≠ 0 := by rintro rfl; exact absurd h18 (by decide)
    obtain ⟨t, ht, ⟨hreg, -⟩, hz, -⟩ := hfct himm
    rw [factorial_mod_eq_zero h18] at hreg hz
    exact ⟨t, ht, hreg, hz⟩

end Sys2Proof.Machine
end

section
/-! Reset, the register FLAGS, the host's load and its fetch probe, and LDR (10_state.md R20, R31; 20_memory.md R46;
41_load_store.md R110). -/

namespace Sys2Proof.Machine

/-- Settles O2: reset writes each register with its reset value and keeps the instruction memory. -/
theorem resetLeaves : Obligations.ResetLeaves := fun s =>
  ⟨rfl, rfl, (by decide : State.reset.flags.toBits = 0), rfl, rfl, rfl, rfl, fun _ => rfl,
    fun _ => imRead_congr (hwReset_im s), rfl⟩

/-- Settles O3: the 16 values of the four flags, evaluated. -/
theorem flagsRegisterNumbering : Obligations.FlagsRegisterNumbering := by
  rintro ⟨z, n, c, v⟩
  revert z n c v
  decide

/-! ## Loading a program -/

theorem setIm_imPlace (a : BitVec 10) (w : Word) (m : Memory) (s : State) :
    (imPlace a w s).setIm m = s.setIm m := rfl

theorem setIm_placeFrom (a : BitVec 10) (ws : List Word) (m : Memory) (s : State) :
    (placeFrom a ws s).setIm m = s.setIm m := by
  induction ws generalizing a s with
  | nil => rfl
  | cons w ws ih => exact (ih (a + 1) (imPlace a w s)).trans (setIm_imPlace a w m s)

theorem imRead_placeFrom {k : Nat} {ws : List Word} {s : State} (hk : k + ws.length ≤ 1024) (a : BitVec 10) :
    imRead a (placeFrom (BitVec.ofNat 10 k) ws s) =
      if k ≤ a.toNat ∧ a.toNat < k + ws.length then ws[a.toNat - k]? else imRead a s := by
  induction ws generalizing k s with
  | nil => rw [if_neg (by rw [List.length_nil]; omega)]; rfl
  | cons w ws ih =>
    rw [List.length_cons] at hk
    have hnext : BitVec.ofNat 10 k + 1 = BitVec.ofNat 10 (k + 1) := (BitVec.ofNat_add k 1).symm
    have hindex : (BitVec.ofNat 10 k).toNat = k := Nat.mod_eq_of_lt (by omega)
    rw [placeFrom, hnext, ih (by omega), List.length_cons]
    by_cases ha : a = BitVec.ofNat 10 k
    · rw [ha, imRead_imPlace_same, hindex, if_neg (by omega), if_pos (by omega), Nat.sub_self,
        List.getElem?_cons_zero]
    · have hne : a.toNat ≠ k := fun h => ha (BitVec.eq_of_toNat_eq (h.trans hindex.symm))
      rw [imRead_imPlace_other ha]
      by_cases hin : k + 1 ≤ a.toNat ∧ a.toNat < k + 1 + ws.length
      · rw [if_pos hin, if_pos (by omega), show a.toNat - k = a.toNat - (k + 1) + 1 by omega, List.getElem?_cons_succ]
      · rw [if_neg hin, if_neg (by omega)]

/-- Settles O5: placing from location 0 puts word `k` at location `k`, and placing touches the instruction memory
alone. -/
theorem loadPlacesProgram : Obligations.LoadPlacesProgram := by
  intro ws s hlen
  refine ⟨fun a => ?_, setIm_placeFrom 0 ws s.im s⟩
  have h : imRead a (loadProgram ws s) = _ := imRead_placeFrom (k := 0) (by rwa [Nat.zero_add]) a
  simpa only [Nat.zero_le, true_and, Nat.zero_add, Nat.sub_zero] using h

/-! ## The fetch probe -/

theorem withFetchWord_16 (s : State) (w : Nat) :
    s.withFetchWord 16 w = imPlace (pcIndex s.pc) (BitVec.ofNat 16 w) s := by
  rw [State.withFetchWord, if_pos (Nat.le_refl 16), tableFirstWord, Nat.sub_self, Nat.pow_zero, Nat.div_one]

/-- Settles O6: the probe is one placing, at the location the next fetch reads. -/
theorem fetchWordIsFetched : Obligations.FetchWordIsFetched := by
  intro s w _
  rw [withFetchWord_16]
  refine ⟨?_, setIm_imPlace _ _ s.im s, fun a ha => imRead_imPlace_other ha _ s⟩
  rw [State.ir, imPlace_pc, imRead_imPlace_same]

/-! ## LDR -/

theorem exec_ldr (ra : Reg) (imm : BitVec 9) (s : State) :
    exec (.ldr ra imm) s = withLoaded imm s (fun v => nextPc (writeReg ra v s)) := rfl

/-- Settles O17: LDR writes R(RA) with the word at IMM and moves PC on, or stops where that holds no value. -/
theorem ldrResult : Obligations.LdrResult := by
  intro ra imm s
  refine ⟨decode_immWord_of_encode (op := 0b000010) rfl rfl, fun v hv => ?_, fun h => ?_⟩
  · exact ⟨_, (exec_ldr ra imm s).trans (withLoaded_of_some hv), onlyReg_nextPc_writeReg ra v s,
      plainFrame_nextPc_writeReg ra v s⟩
  · exact (exec_ldr ra imm s).trans (withLoaded_of_none h)

end Sys2Proof.Machine
end
